-- ==== Sys2Proof/Word.lean ====
section
/-! DEFINITION. The word types of the base45 CORE block (spec/00_scope.md R5 to R7, glossary).
All values are unsigned; bit 0 is the least significant bit. -/

namespace Sys2Proof

/-- R5, glossary: "an unsigned 16-bit value, the atomic unit of encoding for a 2-byte input group". -/
abbrev Word := BitVec 16

/-- R5: BYTE_WIDTH is 8 bits. -/
abbrev Byte := BitVec 8

/-- R5, glossary: an 8-bit field of a command or response that holds one character code or one digit. -/
abbrev Lane := BitVec 8

/-- R60: a command is one 32-bit word. -/
abbrev Cmd := BitVec 32

/-- R70: a response is one 32-bit word. -/
abbrev Rsp := BitVec 32

/-- R5, glossary: a digit or index is an integer 0..44. -/
abbrev Digit := Fin 45

/-- Glossary, "Digit-triple": three indices with value `c + 45*d + 45*45*e`. -/
structure Triple where
  c : Digit
  d : Digit
  e : Digit
  deriving DecidableEq, Repr

end Sys2Proof
end

