-- ==== Sys2Proof/Syntax.lean ====
section
/-! DEFINITION. The commands of the block, one constructor for each row of spec/opcode_table.json (R61, R63), and the
source lines of the spec's assembler (R75, R76). -/

namespace Sys2Proof

/-- R61, R63: the eight legal commands. `l1`, `l2`, `l3` are the operand lanes in stream order. -/
inductive Instr where
  /-- R103: encode a Word as three characters. -/
  | encw (w : Word)
  /-- R150: encode a trailing byte as two characters. -/
  | encb (b : Byte)
  /-- R125: decode three characters to a Word. -/
  | dect (l1 l2 l3 : Lane)
  /-- R152: decode a trailing pair of characters to a byte. -/
  | decp (l1 l2 : Lane)
  /-- R104: encode a Word as three raw digits. -/
  | encwd (w : Word)
  /-- R151: encode a trailing byte as two raw digits. -/
  | encbd (b : Byte)
  /-- R126: decode three raw digits to a Word. -/
  | dectd (l1 l2 l3 : Lane)
  /-- R153: decode a trailing pair of raw digits to a byte. -/
  | decpd (l1 l2 : Lane)
  deriving DecidableEq, Repr

/-- R75, R76: one line of the spec's assembler, its operands as the numbers (or character codes) that were written.
An operand need not fit its field: WellFormed.lean says when it does. -/
inductive AsmLine where
  | encw (w : Nat)
  | encb (b : Nat)
  | dect (l1 l2 l3 : Nat)
  /-- `DECT "<c1><c2><c3>"` -/
  | dectText (text : List Nat)
  | decp (l1 l2 : Nat)
  /-- `DECP "<c1><c2>"` -/
  | decpText (text : List Nat)
  | encwd (w : Nat)
  | encbd (b : Nat)
  | dectd (l1 l2 l3 : Nat)
  | decpd (l1 l2 : Nat)
  /-- `.word <32-bit value>`: any raw command word, legal or not. -/
  | word (v : Nat)
  /-- `ENCS <byte string>` (R76, R171). -/
  | encs (bytes : List Nat)
  /-- `DECS "<text>"` (R76, R174, R175): the characters by their codes, of any width. -/
  | decs (text : List Nat)
  deriving DecidableEq, Repr

end Sys2Proof
end

