-- ==== Sys2Proof/WellFormed.lean ====
section
/-! DEFINITION. When an instruction and an assembler line are well formed: each operand fits its field (R51, R61, R67, R75).
The operands of `Instr` have the widths of their fields as their types, so every `Instr` passes (log entry 17); the
checks that can fail are those of the assembler's lines. -/

namespace Sys2Proof

/-- R5, R51: the ranges of the operands. -/
def Instr.wellFormed : Instr → Bool
  | .encw w => decide (w.toNat ≤ 65535)
  | .encb b => decide (b.toNat ≤ 255)
  | .dect l1 l2 l3 => decide (l1.toNat ≤ 255) && decide (l2.toNat ≤ 255) && decide (l3.toNat ≤ 255)
  | .decp l1 l2 => decide (l1.toNat ≤ 255) && decide (l2.toNat ≤ 255)
  | .encwd w => decide (w.toNat ≤ 65535)
  | .encbd b => decide (b.toNat ≤ 255)
  | .dectd l1 l2 l3 => decide (l1.toNat ≤ 255) && decide (l2.toNat ≤ 255) && decide (l3.toNat ≤ 255)
  | .decpd l1 l2 => decide (l1.toNat ≤ 255) && decide (l2.toNat ≤ 255)

/-- R75: "An assembler refuses an operand that does not fit its field." The characters of DECS may be of any width
(R174). -/
def AsmLine.wellFormed : AsmLine → Bool
  | .encw w => decide (w ≤ 65535)
  | .encb b => decide (b ≤ 255)
  | .dect l1 l2 l3 => decide (l1 ≤ 255) && decide (l2 ≤ 255) && decide (l3 ≤ 255)
  | .dectText text => decide (text.length = 3) && text.all (fun ch => decide (ch ≤ 255))
  | .decp l1 l2 => decide (l1 ≤ 255) && decide (l2 ≤ 255)
  | .decpText text => decide (text.length = 2) && text.all (fun ch => decide (ch ≤ 255))
  | .encwd w => decide (w ≤ 65535)
  | .encbd b => decide (b ≤ 255)
  | .dectd l1 l2 l3 => decide (l1 ≤ 255) && decide (l2 ≤ 255) && decide (l3 ≤ 255)
  | .decpd l1 l2 => decide (l1 ≤ 255) && decide (l2 ≤ 255)
  | .word v => decide (v < 2 ^ 32)
  | .encs bytes => bytes.all (fun b => decide (b ≤ 255))
  | .decs _ => true

end Sys2Proof
end

