-- ==== Sys2Proof/Decode.lean ====
section
/-! DEFINITION. Decoding a command word, total and rejecting by name, and the encoder (R60 to R67, R74). -/

namespace Sys2Proof

/-- R60: `op = cmd[31:28]`. -/
def cmdOp (cmd : Cmd) : BitVec 4 := cmd.extractLsb' 28 4

/-- R60: `rsv = cmd[27:24]`. -/
def cmdRsv (cmd : Cmd) : BitVec 4 := cmd.extractLsb' 24 4

/-- R60: `opnd = cmd[23:0]`. -/
def cmdOpnd (cmd : Cmd) : BitVec 24 := cmd.extractLsb' 0 24

/-- R60: the mode bit `D = cmd[31]`; true is digit mode (R62). -/
def cmdDigitMode (cmd : Cmd) : Bool := cmd.getLsbD 31

/-- R60: the function `fn = cmd[30:28]`. -/
def cmdFn (cmd : Cmd) : BitVec 3 := cmd.extractLsb' 28 3

/-- R61: the Word in `opnd[15:0]`. -/
def opndWord (cmd : Cmd) : Word := cmd.extractLsb' 0 16

/-- R61: the byte in `opnd[7:0]`. -/
def opndByte (cmd : Cmd) : Byte := cmd.extractLsb' 0 8

/-- R61: the lane in `opnd[23:16]`. -/
def laneHi (cmd : Cmd) : Lane := cmd.extractLsb' 16 8

/-- R61: the lane in `opnd[15:8]`. -/
def laneMid (cmd : Cmd) : Lane := cmd.extractLsb' 8 8

/-- R61: the lane in `opnd[7:0]`. -/
def laneLo (cmd : Cmd) : Lane := cmd.extractLsb' 0 8

/-- R66: the legality check, applied to every command before any operand is read. -/
def legal (cmd : Cmd) : Bool :=
  cmdRsv cmd == 0#4 &&
    match cmdOp cmd with
    | 0x1#4 | 0x9#4 | 0x4#4 | 0xC#4 => (cmdOpnd cmd).extractLsb' 16 8 == 0#8
    | 0x2#4 | 0xA#4 => (cmdOpnd cmd).extractLsb' 8 16 == 0#16
    | 0x3#4 | 0xB#4 => true
    | _ => false

/-- R74: why a command word is illegal. -/
inductive IllegalReason where
  /-- R64: `rsv` is not 0. -/
  | reservedBits
  /-- R63: an unassigned `op`. -/
  | unassignedOp
  /-- R65: an operand bit that must be zero is 1. -/
  | operandBits
  deriving DecidableEq, Repr

/-- R61, R63: the command a word stands for, or why it stands for none (R74). -/
def decode (cmd : Cmd) : Except IllegalReason Instr :=
  if cmdRsv cmd ≠ 0#4 then .error .reservedBits
  else
    match cmdOp cmd with
    | 0x1#4 => if laneHi cmd = 0#8 then .ok (.encw (opndWord cmd)) else .error .operandBits
    | 0x2#4 => if laneHi cmd = 0#8 ∧ laneMid cmd = 0#8 then .ok (.encb (opndByte cmd)) else .error .operandBits
    | 0x3#4 => .ok (.dect (laneHi cmd) (laneMid cmd) (laneLo cmd))
    | 0x4#4 => if laneHi cmd = 0#8 then .ok (.decp (laneMid cmd) (laneLo cmd)) else .error .operandBits
    | 0x9#4 => if laneHi cmd = 0#8 then .ok (.encwd (opndWord cmd)) else .error .operandBits
    | 0xA#4 => if laneHi cmd = 0#8 ∧ laneMid cmd = 0#8 then .ok (.encbd (opndByte cmd)) else .error .operandBits
    | 0xB#4 => .ok (.dectd (laneHi cmd) (laneMid cmd) (laneLo cmd))
    | 0xC#4 => if laneHi cmd = 0#8 then .ok (.decpd (laneMid cmd) (laneLo cmd)) else .error .operandBits
    | _ => .error .unassignedOp

/-- R61: the 32-bit pattern of each command, most significant part first. -/
def encode : Instr → Cmd
  | .encw w => 0x1#4 ++ 0#4 ++ 0#8 ++ w
  | .encb b => 0x2#4 ++ 0#4 ++ 0#8 ++ 0#8 ++ b
  | .dect l1 l2 l3 => 0x3#4 ++ 0#4 ++ l1 ++ l2 ++ l3
  | .decp l1 l2 => 0x4#4 ++ 0#4 ++ 0#8 ++ l1 ++ l2
  | .encwd w => 0x9#4 ++ 0#4 ++ 0#8 ++ w
  | .encbd b => 0xA#4 ++ 0#4 ++ 0#8 ++ 0#8 ++ b
  | .dectd l1 l2 l3 => 0xB#4 ++ 0#4 ++ l1 ++ l2 ++ l3
  | .decpd l1 l2 => 0xC#4 ++ 0#4 ++ 0#8 ++ l1 ++ l2

/-- A row of spec/opcode_table.json: R66 says a word is the row's when `cmd & mask == match`. -/
structure OpcodeRow where
  mnemonic : String
  pattern : Cmd
  mask : Cmd
  deriving DecidableEq, Repr

/-- The rows of spec/opcode_table.json. -/
def opcodeTable : List OpcodeRow :=
  [ ⟨"ENCW", 0x10000000#32, 0xFFFF0000#32⟩,
    ⟨"ENCB", 0x20000000#32, 0xFFFFFF00#32⟩,
    ⟨"DECT", 0x30000000#32, 0xFF000000#32⟩,
    ⟨"DECP", 0x40000000#32, 0xFFFF0000#32⟩,
    ⟨"ENCWD", 0x90000000#32, 0xFFFF0000#32⟩,
    ⟨"ENCBD", 0xA0000000#32, 0xFFFFFF00#32⟩,
    ⟨"DECTD", 0xB0000000#32, 0xFF000000#32⟩,
    ⟨"DECPD", 0xC0000000#32, 0xFFFF0000#32⟩ ]

/-- R66: `cmd & mask == match`. -/
def OpcodeRow.matches (row : OpcodeRow) (cmd : Cmd) : Bool := cmd &&& row.mask == row.pattern

/-- The name of a command's row in spec/opcode_table.json. -/
def Instr.mnemonic : Instr → String
  | .encw _ => "ENCW"
  | .encb _ => "ENCB"
  | .dect _ _ _ => "DECT"
  | .decp _ _ => "DECP"
  | .encwd _ => "ENCWD"
  | .encbd _ => "ENCBD"
  | .dectd _ _ _ => "DECTD"
  | .decpd _ _ => "DECPD"

/-- The instruction the decoder reads from a word numbered as the opcode table numbers it. A command has one length,
32 bits (R60), and is carried whole on `cmd_data`, so no byte order enters. -/
def decodeTableWord (nbits w : Nat) : Option Instr :=
  if nbits ≤ 32 ∧ w < 2 ^ nbits then (decode (BitVec.ofNat 32 w)).toOption else none

end Sys2Proof
end

