-- ==== Sys2Proof/Machine/Flags.lean ====
section
/-! DEFINITION. The status of a response, the block's only flag-like value (R25, R71), and the response word (R70).
No flag persists between commands. -/

namespace Sys2Proof.Machine

/-- R71: the outcome codes. -/
inductive Status where
  | ok
  | invalidLength
  | invalidCharacter
  | invalidCode
  | illegalCommand
  deriving DecidableEq, Repr

/-- R71: the 4-bit code of each status. -/
def Status.code : Status → BitVec 4
  | .ok => 0x0#4
  | .invalidLength => 0x1#4
  | .invalidCharacter => 0x2#4
  | .invalidCode => 0x3#4
  | .illegalCommand => 0x4#4

/-- R71: the status a code names; 0x5..0xF are reserved. -/
def Status.ofCode : BitVec 4 → Option Status
  | 0x0#4 => some .ok
  | 0x1#4 => some .invalidLength
  | 0x2#4 => some .invalidCharacter
  | 0x3#4 => some .invalidCode
  | 0x4#4 => some .illegalCommand
  | _ => none

/-- R71, R203, R208: whether the block may produce a code: "A host that receives a code the block never produces (0x1,
or 0x5..0xF) has seen a fault of the block." -/
def statusProduced (code : BitVec 4) : Bool :=
  code == 0x0#4 || code == 0x2#4 || code == 0x3#4 || code == 0x4#4

/-- R201 to R204: the kinds of error. -/
inductive ErrorKind where
  /-- R203: only the host's DECS reports it. -/
  | invalidLength
  /-- R201. -/
  | invalidCharacter
  /-- R202. -/
  | invalidCode
  /-- R204. -/
  | illegalCommand
  deriving DecidableEq, Repr

/-- R201 to R204: the status of each error. -/
def ErrorKind.status : ErrorKind → Status
  | .invalidLength => .invalidLength
  | .invalidCharacter => .invalidCharacter
  | .invalidCode => .invalidCode
  | .illegalCommand => .illegalCommand

/-- R70: `rsp = {status4, op4, data24}`, with `op` the copy of `cmd[31:28]` (R72). -/
def respond (cmd : Cmd) (status : Status) (data : BitVec 24) : Rsp :=
  status.code ++ cmdOp cmd ++ data

/-- R9, R200: `raise <Error>` means `respond(<code of Error>, 0x000000)`. It is not a trap: it saves no state, changes
no mode and has no vector. -/
def raise (cmd : Cmd) (error : ErrorKind) : Rsp :=
  respond cmd error.status 0#24

/-- R70: `rsp[31:28]`. -/
def rspStatus (rsp : Rsp) : BitVec 4 := rsp.extractLsb' 28 4

/-- R70: `rsp[27:24]`. -/
def rspOp (rsp : Rsp) : BitVec 4 := rsp.extractLsb' 24 4

/-- R70: `rsp[23:0]`. -/
def rspData (rsp : Rsp) : BitVec 24 := rsp.extractLsb' 0 24

/-- R73: `data[23:16]`. -/
def rspHi (rsp : Rsp) : Byte := rsp.extractLsb' 16 8

/-- R73: `data[15:8]`. -/
def rspMid (rsp : Rsp) : Byte := rsp.extractLsb' 8 8

/-- R73: `data[7:0]`. -/
def rspLo (rsp : Rsp) : Byte := rsp.extractLsb' 0 8

end Sys2Proof.Machine
end

