-- ==== Sys2Proof/Machine/Operands.lean ====
section
/-! DEFINITION. The alphabet in both directions, the lanes of the two modes, and the byte order (R9, R40 to R46, R62,
R142). -/

namespace Sys2Proof.Machine

/-- R9: `ALPHA[i]` reads the alphabet ROM. -/
def alpha (rom : Vector Byte 45) (i : Digit) : Lane := rom[i]

/-- R41: `ALPHA_INV(ch)`, the index `i` in 0..44 with `ALPHA[i] = ch`, or NONE. The alphabet's characters are distinct
(R42), so there is at most one; of a ROM with repeats this takes the lowest (log entry 13). -/
def alphaInv (rom : Vector Byte 45) (ch : Lane) : Option Digit :=
  (List.finRange 45).find? (fun i => alpha rom i == ch)

/-- R122: in digit mode a lane is a digit if it is at most 44. -/
def digitOfLane (l : Lane) : Option Digit :=
  if h : l.toNat < 45 then some ⟨l.toNat, h⟩ else none

/-- R62: in digit mode the encoder writes the digit, zero-extended to 8 bits. -/
def laneOfDigit (i : Digit) : Lane := BitVec.ofNat 8 i.val

/-- R142: `OUT` is `ALPHA` in character mode and `zext_8` in digit mode. -/
def laneOut (digitMode : Bool) (rom : Vector Byte 45) (i : Digit) : Lane :=
  if digitMode then laneOfDigit i else alpha rom i

/-- R142: `IN` is `ALPHA_INV` in character mode and the `<= 44` test in digit mode. -/
def laneIn (digitMode : Bool) (rom : Vector Byte 45) (l : Lane) : Option Digit :=
  if digitMode then digitOfLane l else alphaInv rom l

/-- R45: `word = {byte0, byte1}`, the first byte in stream order the high one. -/
def wordOfBytes (byte0 byte1 : Byte) : Word := byte0 ++ byte1

/-- R142, R144: the filler third digit of the pair decoder is 0 in both modes. -/
def fillerDigit : Digit := 0

/-- R174: the lane code of a character, given by its code: unchanged if it is one of the 256 8-bit codes, else 0x00,
which is outside the alphabet. Never cut down to its low 8 bits. -/
def laneOfChar (ch : Nat) : Lane := if ch < 256 then BitVec.ofNat 8 ch else 0x00#8

end Sys2Proof.Machine
end

