-- ==== Sys2Proof/Config.lean ====
section
/-! DEFINITION. What the spec leaves to the implementation (R5, R236) and the free values of the model.
Nothing here has a body that a proof could see: each constant stands for every value the spec admits.
DEPTH and LATENCY are at least 1 by their definition (log entries 1, 2 and 9). -/

namespace Sys2Proof.Config

/-- DEPTH less one: an open parameter (R5, D6). -/
opaque depthPred : Nat

/-- R5: "DEPTH: maximum number of commands accepted and not yet answered, an integer >= 1". -/
def depth : Nat := depthPred + 1

/-- LATENCY less one: an open parameter (R5, D5). -/
opaque latencyPred : Nat

/-- R5: "LATENCY: clock cycles from a command's acceptance to its response being offered, an integer >= 1". -/
def latency : Nat := latencyPred + 1

/-- R5: "READY_AFTER_RESET: cycles after reset is released before `cmd_ready` may first be high, an integer >= 0". From
which cycle they are counted is log entry 22. -/
opaque readyAfterReset : Nat

/-- R30, I4: a free value. How many cycles the block keeps `cmd_ready` low before it next drives it high,
drawn at the edge of the given index. Finite, which is the fairness of R29 (log entry 2). -/
opaque readyGap : Nat → Nat

/-- R31, I2: a free value. How many cycles beyond LATENCY the response to the command accepted at the edge of
the given index waits before it may be offered. Finite, which is the fairness of R29 (log entry 2). -/
opaque rspGap : Nat → Nat

/-- R32, I5: a free value. What `rsp_data` carries while `rsp_valid` is low (log entry 9). -/
opaque idleRspData : Nat → Rsp

end Sys2Proof.Config
end

