-- ==== Sys2Proof/Machine/Alphabet.lean ====
section
/-! DEFINITION. The contents of the alphabet ROM (R26, R40). -/

namespace Sys2Proof.Machine

/-- R40: `ALPHA[0..44]`: '0'-'9', 'A'-'Z', then space, '$', '%', '*', '+', '-', '.', '/', ':'. The codes are ASCII, which
the spec marks as general knowledge (log entry 13). -/
def alphabet : Vector Byte 45 :=
  #v[0x30, 0x31, 0x32, 0x33, 0x34, 0x35, 0x36, 0x37, 0x38, 0x39,
     0x41, 0x42, 0x43, 0x44, 0x45, 0x46, 0x47, 0x48, 0x49, 0x4A, 0x4B, 0x4C, 0x4D,
     0x4E, 0x4F, 0x50, 0x51, 0x52, 0x53, 0x54, 0x55, 0x56, 0x57, 0x58, 0x59, 0x5A,
     0x20, 0x24, 0x25, 0x2A, 0x2B, 0x2D, 0x2E, 0x2F, 0x3A]

end Sys2Proof.Machine
end

