-- ==== Sys2Proof/Machine/State.lean ====
section
/-! DEFINITION. The state of the block and of the host's side of its channels, as plain data (R20 to R32), the reasons
a step can stop, and the state right after reset. -/

namespace Sys2Proof.Machine

/-- What the host drives in one clock cycle, sampled at the rising edge (R20). -/
structure Edge where
  rst : Bool
  cmdValid : Bool
  /-- R21, D30: none stands for a `cmd_data` with some bit that is no defined 0 or 1. -/
  cmdData : Option Cmd
  rspReady : Bool
  deriving DecidableEq, Repr

/-- What happens next on the host's side: a rising edge, or the clock is stopped (R213). -/
inductive HostEvent where
  | edge (e : Edge)
  | clockStop
  deriving DecidableEq, Repr

/-- One entry of the in-flight queue (R27): the response, computed when its command was accepted (R28), and how many
cycles must still pass before it may be offered (R31). -/
structure InFlight where
  rsp : Rsp
  /-- The model's own field, for LATENCY and the free delay beyond it (log entry 2). -/
  wait : Nat
  deriving DecidableEq, Repr

/-- The host: what it will do (the model's own), and its record of the channels. -/
structure HostSide where
  /-- The next events, pin by pin, soonest first (log entry 6). -/
  script : List HostEvent
  /-- The commands the host loop of R170 still has to issue once the script is exhausted (log entry 6). -/
  program : List Cmd
  /-- R21: the command offered and not accepted yet, which must stay offered. -/
  held : Option Cmd
  /-- R22, R208: the response offered and not taken yet, which must not change. -/
  seen : Option Rsp
  /-- R47, R235: the commands accepted since the last reset, oldest first. -/
  issued : List Cmd
  /-- R29, R47: the responses delivered since the last reset, oldest first. -/
  received : List Rsp
  deriving DecidableEq, Repr

/-- R29, R32: the state of the block (`q`, `inReset`, `rom`), what the model keeps for the values the spec leaves open
(`readyWait`, `draw`), and the host. -/
structure State where
  /-- R27: the in-flight queue `Q`, oldest first. -/
  q : List InFlight
  /-- R29: `in_reset`. -/
  inReset : Bool
  /-- R26: the alphabet ROM. -/
  rom : Vector Byte 45
  /-- R30, R232: cycles until the block next drives `cmd_ready` high (log entry 2). -/
  readyWait : Nat
  /-- The index of the next free value, advanced at every edge (log entry 2). -/
  draw : Nat
  host : HostSide
  deriving DecidableEq, Repr

/-- R208: what the host sees of a faulty block. No step from a state that meets the invariant answers one. Stopping
here is safe. -/
inductive Fault where
  /-- R208, R71: the host took a response whose status is 0x1 or 0x5..0xF. Raised by `deliver`; safe. -/
  | responseStatus
  /-- R208, R72: the host took a response whose op echo is not that of its oldest unanswered command. Raised by
  `deliver`; safe. -/
  | responseEcho
  /-- R208: the host took a response with no command unanswered. Raised by `deliver`; safe. -/
  | responseUnrequested
  /-- R208, R22: an offered response changed before the host took it. Raised by `deliver`; safe. -/
  | responseChanged
  deriving DecidableEq, Repr

/-- Runs the spec does not cover. -/
inductive Refusal where
  /-- An instruction without a meaning yet: raised by no arm of `exec`; safe. -/
  | notModelled (mnemonic : String)
  /-- R21, I10: the host dropped `cmd_valid` before the command was accepted. Raised by `clockEdge`; safe. -/
  | commandWithdrawn
  /-- R21, I10: the host changed `cmd_data` before the command was accepted. Raised by `clockEdge`; safe. -/
  | commandChanged
  /-- R21, I11: `cmd_data` has a bit that is no defined 0 or 1 while `cmd_valid` is high. Raised by `clockEdge`; safe. -/
  | commandUndriven
  /-- R213, I7: the clock was stopped; whether `Q` survives is not specified. Raised by `hostEvent`; safe. -/
  | clockStopped
  deriving DecidableEq, Repr

/-- A host that has done nothing and will do nothing of its own (log entries 6, 7 and 8). -/
def HostSide.fresh : HostSide :=
  { script := [], program := [], held := none, seen := none, issued := [], received := [] }

/-- R32, R232, R233: the state right after reset is released. `readyWait` is READY_AFTER_RESET and the first free delay
(log entry 2); the cycle that ends at the first step is the first of the READY_AFTER_RESET (log entry 22). -/
def State.reset : State :=
  { q := []
    inReset := false
    rom := alphabet
    readyWait := Config.readyAfterReset + Config.readyGap 0
    draw := 1
    host := HostSide.fresh }

end Sys2Proof.Machine
end

