-- ==== Sys2Proof/Machine/Ops.lean ====
section
/-! DEFINITION. The shared operations: the two arithmetic datapaths (R100, R120, R123), and what happens on the
channels at an edge (R21, R22, R29 to R32, R208, R231). The error mechanism of R200 is `raise` in Flags.lean: no trap is
entered and none is returned from. -/

namespace Sys2Proof.Machine

/-! ### The datapaths -/

/-- R100: mod45, div45, mod45, div45. -/
def enc16 (w : Word) : Triple :=
  let t := w.toNat / 45
  { c := ⟨w.toNat % 45, Nat.mod_lt _ (by decide)⟩
    d := ⟨t % 45, Nat.mod_lt _ (by decide)⟩
    e := ⟨t / 45, by have := w.isLt; omega⟩ }

/-- R120: `v = i1 + 45*i2 + 2025*i3`, exact. -/
def weightedSum (i1 i2 i3 : Digit) : Nat := i1.val + 45 * i2.val + 2025 * i3.val

/-- R123: membership of all three, then the range check, then the Word. -/
def dec3 (i1 i2 i3 : Option Digit) : Except ErrorKind Word :=
  match i1, i2, i3 with
  | some c, some d, some e =>
    if weightedSum c d e > 65535 then .error .invalidCode
    else .ok (BitVec.ofNat 16 (weightedSum c d e))
  | _, _, _ => .error .invalidCharacter

/-- R73: `{x8, y8, z8}` in the data field. -/
def lanes3 (x y z : Lane) : BitVec 24 := x ++ y ++ z

/-- R73: the response of `DECT` and `DECTD`: `{0x00, word}`, or the error. -/
def respondWord (cmd : Cmd) : Except ErrorKind Word → Rsp
  | .ok v => respond cmd .ok (0#8 ++ v)
  | .error k => raise cmd k

/-- R73, R144: the response of `DECP` and `DECPD`: `{0x0000, trunc_8(v)}`, or the error. -/
def respondByte (cmd : Cmd) : Except ErrorKind Word → Rsp
  | .ok v => respond cmd .ok (0#16 ++ v.setWidth 8)
  | .error k => raise cmd k

/-! ### What the block drives -/

/-- R30: whether `len(Q) < DEPTH`. -/
def State.hasRoom (s : State) : Bool := decide (s.q.length < Config.depth)

/-- R29: whether the block accepts a command that is offered: not in reset, room in `Q`, and `cmd_ready` driven high. -/
def State.canAccept (s : State) : Bool := !s.inReset && s.hasRoom && s.readyWait == 0

/-- R20, R30: the output `cmd_ready`, given the `rst` of the cycle. In the cycle that ends at the edge of the release
`in_reset` is still true and `rst` is 0, and `cmd_ready` is as free as in any other (log entry 4). -/
def State.cmdReady (s : State) (rst : Bool) : Bool := !rst && s.hasRoom && s.readyWait == 0

/-- R22: the response on offer: the head of `Q`, once its wait is over. -/
def State.offered (s : State) : Option Rsp :=
  match s.q with
  | [] => none
  | x :: _ => if x.wait = 0 then some x.rsp else none

/-- R20, R22, R231: the output `rsp_valid`, given the `rst` of the cycle. -/
def State.rspValid (s : State) (rst : Bool) : Bool := !rst && s.offered.isSome

/-- R20, R22, R32: the output `rsp_data`: the head of `Q` while `rsp_valid` is high, else any value. -/
def State.rspData (s : State) (rst : Bool) : Rsp :=
  match s.offered with
  | some r => if rst then Config.idleRspData s.draw else r
  | none => Config.idleRspData s.draw

/-! ### The command channel -/

/-- R29 `Accept(cmd)`: `Q <- Q ++ [EXEC(cmd)]`. The response may be offered no earlier than LATENCY cycles from now
(R31). The wait is finite whatever the host drives on `rsp_ready` (log entry 23). -/
def State.accept (s : State) (cmd : Cmd) (rsp : Rsp) : State :=
  { s with
    q := s.q ++ [{ rsp := rsp, wait := Config.rspGap s.draw + Config.latency }]
    host := { s.host with held := none, issued := s.host.issued ++ [cmd] } }

/-- R21: the command is not accepted at this edge; the host must go on offering it. -/
def State.hold (s : State) (cmd : Cmd) : State :=
  { s with host := { s.host with held := some cmd } }

/-- R21, R29: a command offered with its response: accepted if the block is ready, else waiting. -/
def State.issue (s : State) (cmd : Cmd) (rsp : Rsp) : State :=
  if s.canAccept then s.accept cmd rsp else s.hold cmd

/-- R74, R204: an illegal command is accepted and answered like any other, with status IllegalCommand. -/
def State.issueIllegal (s : State) (cmd : Cmd) : State := s.issue cmd (raise cmd .illegalCommand)

/-! ### The response channel -/

/-- R208: what is wrong with a response that the host takes, given the commands it has issued and the responses it has
received. -/
def responseFault (issued : List Cmd) (received : List Rsp) (rsp : Rsp) : Option Fault :=
  match issued[received.length]? with
  | none => some .responseUnrequested
  | some cmd =>
    if !statusProduced (rspStatus rsp) then some .responseStatus
    else if rspOp rsp ≠ cmdOp cmd then some .responseEcho
    else none

/-- R29 `Deliver`: the host receives `head(Q)` and `Q <- tail(Q)`. -/
def State.take (s : State) (rsp : Rsp) : State :=
  { s with
    q := s.q.tail
    host := { s.host with seen := none, received := s.host.received ++ [rsp] } }

/-- R22: what the host has seen on offer and not taken. -/
def State.see (s : State) (offer : Option Rsp) : State :=
  { s with host := { s.host with seen := offer } }

/-- R22, R29, R208: the response channel at an edge with `rst = 0`. -/
def deliver (rspReady : Bool) (s : State) : Host.Outcome State Fault Refusal :=
  match s.offered with
  | none => .next (s.see none)
  | some rsp =>
    if s.host.seen.isSome && s.host.seen != some rsp then .fault .responseChanged
    else if rspReady then
      match responseFault s.host.issued s.host.received rsp with
      | some f => .fault f
      | none => .next (s.take rsp)
    else .next (s.see (some rsp))

/-! ### Time and reset -/

/-- One cycle nearer to being offered (R31). -/
def InFlight.tick (x : InFlight) : InFlight := { x with wait := x.wait - 1 }

/-- The end of an edge with `rst = 0`: every countdown advances, and a `cmd_ready` that was high is drawn anew (R30). -/
def State.tick (s : State) : State :=
  { s with
    q := s.q.map InFlight.tick
    readyWait := if s.readyWait = 0 then Config.readyGap s.draw else s.readyWait - 1
    draw := s.draw + 1 }

/-- R29 `ResetAssert`, R231: an edge with `rst = 1`. The host's duty to go on offering a command ends (log entry 5), and its
record starts anew (log entry 8). The cycle that ends at the first edge with `rst = 0` is the first of the
READY_AFTER_RESET cycles, because the countdown advances at that edge (log entry 22). -/
def State.resetAssert (s : State) : State :=
  { s with
    q := []
    inReset := true
    readyWait := Config.readyAfterReset + Config.readyGap s.draw
    draw := s.draw + 1
    host := { s.host with held := none, seen := none, issued := [], received := [] } }

/-- R29 `ResetRelease`: `in_reset <- false` at an edge with `rst = 0`. -/
def State.resetRelease (s : State) : State := { s with inReset := false }

/-! ### The host's next event -/

/-- R21: how the host breaks its duty to go on offering the command it holds, if it does. -/
def dutyBroken (held : Option Cmd) (e : Edge) : Option Refusal :=
  match held with
  | none => none
  | some cmd =>
    if !e.cmdValid then some .commandWithdrawn
    else if e.cmdData ≠ some cmd then some .commandChanged
    else none

/-- An edge at which a well-behaved host offers a command and takes what is offered. -/
def offerEdge (cmd : Cmd) : Edge := { rst := false, cmdValid := true, cmdData := some cmd, rspReady := true }

/-- An edge at which the host offers nothing and takes what is offered. -/
def idleEdge : Edge := { rst := false, cmdValid := false, cmdData := none, rspReady := true }

/-- The host's next event: the script's, then the host loop of R170 (the command it holds, else the program's next),
then an idle host (log entry 6). -/
def HostSide.nextEvent (h : HostSide) : HostEvent :=
  match h.script with
  | ev :: _ => ev
  | [] =>
    match h.held with
    | some cmd => .edge (offerEdge cmd)
    | none =>
      match h.program with
      | cmd :: _ => .edge (offerEdge cmd)
      | [] => .edge idleEdge

/-- The host once its next event has been taken from it. -/
def HostSide.advance (h : HostSide) : HostSide :=
  match h.script with
  | _ :: rest => { h with script := rest }
  | [] =>
    match h.held with
    | some _ => h
    | none => { h with program := h.program.tail }

/-- The state once the host's next event has been taken from it. -/
def State.advance (s : State) : State := { s with host := s.host.advance }

/-- R52: the drain condition: `len(Q) = 0` and no command pending on `cmd_data`. A command is pending once an edge has
left it unaccepted; one first offered in the present cycle is not counted (log entry 24). -/
def State.drained (s : State) : Bool := s.q.isEmpty && s.host.held.isNone

end Sys2Proof.Machine
end

