-- ==== Sys2Proof/Machine/RadixConverter.lean ====
section
/-! DEFINITION. radix_converter_unit: the pair forms ENCB, ENCBD, DECP, DECPD (spec/42_radix_converter.md). -/

namespace Sys2Proof.Machine

/-- R143, R150: the word encoder on `zext_16(b)`; the third digit is omitted. -/
def execEncb (b : Byte) (s : State) : Host.Outcome State Fault Refusal :=
  let cmd := encode (.encb b)
  let t := enc16 (b.setWidth 16)
  .next (s.issue cmd (respond cmd .ok (lanes3 0x00#8 (alpha s.rom t.c) (alpha s.rom t.d))))

/-- R143, R151: as ENCB, the digits raw. -/
def execEncbd (b : Byte) (s : State) : Host.Outcome State Fault Refusal :=
  let cmd := encode (.encbd b)
  let t := enc16 (b.setWidth 16)
  .next (s.issue cmd (respond cmd .ok (lanes3 0x00#8 (laneOfDigit t.c) (laneOfDigit t.d))))

/-- R144, R152: the word decoder with a filler third digit 0; the low 8 bits are kept. -/
def execDecp (l1 l2 : Lane) (s : State) : Host.Outcome State Fault Refusal :=
  let cmd := encode (.decp l1 l2)
  .next (s.issue cmd (respondByte cmd (dec3 (alphaInv s.rom l1) (alphaInv s.rom l2) (some fillerDigit))))

/-- R144, R153: as DECP, the lanes digits. -/
def execDecpd (l1 l2 : Lane) (s : State) : Host.Outcome State Fault Refusal :=
  let cmd := encode (.decpd l1 l2)
  .next (s.issue cmd (respondByte cmd (dec3 (digitOfLane l1) (digitOfLane l2) (some fillerDigit))))

end Sys2Proof.Machine
end

