-- ==== Sys2Proof/Machine/WordDecoder.lean ====
section
/-! DEFINITION. base45_word_decoder: DECT and DECTD (spec/41_word_decoder.md). -/

namespace Sys2Proof.Machine

/-- R125: three characters to a Word, or InvalidCharacter, or InvalidCode. -/
def execDect (l1 l2 l3 : Lane) (s : State) : Host.Outcome State Fault Refusal :=
  let cmd := encode (.dect l1 l2 l3)
  .next (s.issue cmd (respondWord cmd (dec3 (alphaInv s.rom l1) (alphaInv s.rom l2) (alphaInv s.rom l3))))

/-- R126: three digits to a Word, or InvalidCharacter, or InvalidCode. -/
def execDectd (l1 l2 l3 : Lane) (s : State) : Host.Outcome State Fault Refusal :=
  let cmd := encode (.dectd l1 l2 l3)
  .next (s.issue cmd (respondWord cmd (dec3 (digitOfLane l1) (digitOfLane l2) (digitOfLane l3))))

end Sys2Proof.Machine
end

