-- ==== Sys2Proof/Machine/WordEncoder.lean ====
section
/-! DEFINITION. base45_word_encoder: ENCW and ENCWD (spec/40_word_encoder.md). -/

namespace Sys2Proof.Machine

/-- R103: `rsp = {0x0, 0x1, ALPHA[c], ALPHA[d], ALPHA[e]}`. -/
def execEncw (w : Word) (s : State) : Host.Outcome State Fault Refusal :=
  let cmd := encode (.encw w)
  let t := enc16 w
  .next (s.issue cmd (respond cmd .ok (lanes3 (alpha s.rom t.c) (alpha s.rom t.d) (alpha s.rom t.e))))

/-- R104: `rsp = {0x0, 0x9, c, d, e}`. -/
def execEncwd (w : Word) (s : State) : Host.Outcome State Fault Refusal :=
  let cmd := encode (.encwd w)
  let t := enc16 w
  .next (s.issue cmd (respond cmd .ok (lanes3 (laneOfDigit t.c) (laneOfDigit t.d) (laneOfDigit t.e))))

end Sys2Proof.Machine
end

