-- ==== Sys2Proof/Machine/Dispatch.lean ====
section
/-! DEFINITION. One arm for each command (R63). -/

namespace Sys2Proof.Machine

def exec (i : Instr) (s : State) : Host.Outcome State Fault Refusal :=
  match i with
  | .encw w => Sys2Proof.Machine.execEncw w s
  | .encb b => Sys2Proof.Machine.execEncb b s
  | .dect l1 l2 l3 => Sys2Proof.Machine.execDect l1 l2 l3 s
  | .decp l1 l2 => Sys2Proof.Machine.execDecp l1 l2 s
  | .encwd w => Sys2Proof.Machine.execEncwd w s
  | .encbd b => Sys2Proof.Machine.execEncbd b s
  | .dectd l1 l2 l3 => Sys2Proof.Machine.execDectd l1 l2 l3 s
  | .decpd l1 l2 => Sys2Proof.Machine.execDecpd l1 l2 s

end Sys2Proof.Machine
end

