-- ==== Sys2Proof/Machine/Channel.lean ====
section
/-! DEFINITION. One rising edge of the clock (R20 to R22, R29 to R31, R230 to R232): what Step.lean runs.
At an edge with `rst = 0` the block leaves reset if it was in it, takes the command channel, then the response channel,
then every countdown advances. The order of the two channels does not show: a response accepted at this edge has a wait
of at least 1, so it is not delivered at it (R31; log entry 3). -/

namespace Sys2Proof.Machine

/-- R63, R74: run a command word: its instruction, or the answer to an illegal command. -/
def runCommand (cmd : Cmd) (s : State) : Host.Outcome State Fault Refusal :=
  match decode cmd with
  | .ok i => exec i s
  | .error _ => .next (s.issueIllegal cmd)

/-- R21: the command channel at an edge with `rst = 0`. -/
def commandChannel (e : Edge) (s : State) : Host.Outcome State Fault Refusal :=
  match e.cmdValid, e.cmdData with
  | true, some cmd => runCommand cmd s
  | _, _ => .next s

/-- The response channel, then the countdowns. -/
def finishEdge (rspReady : Bool) (s : State) : Host.Outcome State Fault Refusal :=
  match deliver rspReady s with
  | .next s' => .next s'.tick
  | .fault f => .fault f
  | .refused r => .refused r

/-- An edge with `rst = 0` at which the host keeps its duties. -/
def runEdge (e : Edge) (s : State) : Host.Outcome State Fault Refusal :=
  match commandChannel e s.resetRelease with
  | .next s' => finishEdge e.rspReady s'
  | .fault f => .fault f
  | .refused r => .refused r

/-- R21, R230, R231: one rising edge. -/
def clockEdge (e : Edge) (s : State) : Host.Outcome State Fault Refusal :=
  if e.cmdValid && e.cmdData.isNone then .refused .commandUndriven
  else if e.rst then .next s.resetAssert
  else
    match dutyBroken s.host.held e with
    | some r => .refused r
    | none => runEdge e s

/-- One event of the host's. R213, I7: the model has no clock-stop step. -/
def hostEvent (ev : HostEvent) (s : State) : Host.Outcome State Fault Refusal :=
  match ev with
  | .edge e => clockEdge e s
  | .clockStop => .refused .clockStopped

/-- The host's next event, taken from it and run. -/
def nextEdge (s : State) : Host.Outcome State Fault Refusal := hostEvent s.host.nextEvent s.advance

/-- The host's taking all that is in flight (used by `placeCommand` to make room). -/
def State.takeAll (s : State) : State :=
  { s with
    q := []
    host := { s.host with seen := none, received := s.host.received ++ s.q.map InFlight.rsp } }

/-- The state in which the host offers a command at the very next edge and the block accepts it: an edge in front of the
script, no other command held, `cmd_ready` high, and room in `Q` (log entry 16). -/
def State.placeCommand (s : State) (cmd : Cmd) : State :=
  let t := if s.hasRoom then s else s.takeAll
  { t with
    readyWait := 0
    host :=
      { t.host with
        held := none
        script :=
          .edge { rst := false, cmdValid := true, cmdData := some cmd, rspReady := false } :: t.host.script } }

end Sys2Proof.Machine
end

