-- ==== Sys2Proof/Machine/Step.lean ====
section
/-! DEFINITION. The step of the machine: one rising edge of the clock, with what the host does at it (R20, R29). -/

namespace Sys2Proof.Machine

/-- One rising edge of `clk`. -/
def step (s : State) : Host.Outcome State Fault Refusal := nextEdge s

/-- R24: the block fetches nothing; the host offers a command on `cmd_data`. This is `s` with the command whose bits are
`w` offered, and accepted, at the next edge (log entry 16). -/
def State.withFetchWord (s : State) (_nbits w : Nat) : State := s.placeCommand (BitVec.ofNat 32 w)

end Sys2Proof.Machine
end

