-- ==== Sys2Proof/Machine/BlockFunction.lean ====
section
/-! DEFINITION. The block function of R140, from a command word to its response word, written from the rule's own
pseudocode and not from the meanings of the single instructions. -/

namespace Sys2Proof.Machine

/-- R140: `EXEC(cmd)`. It reads nothing but `cmd` and the alphabet ROM. -/
def blockFunction (rom : Vector Byte 45) (cmd : Cmd) : Rsp :=
  let d := cmdDigitMode cmd
  let op := cmdOp cmd
  if legal cmd then
    match cmdFn cmd with
    | 0b001#3 =>
      let t := enc16 (opndWord cmd)
      0x0#4 ++ op ++ laneOut d rom t.c ++ laneOut d rom t.d ++ laneOut d rom t.e
    | 0b010#3 =>
      let t := enc16 ((opndByte cmd).setWidth 16)
      0x0#4 ++ op ++ 0x00#8 ++ laneOut d rom t.c ++ laneOut d rom t.d
    | 0b011#3 =>
      match dec3 (laneIn d rom (laneHi cmd)) (laneIn d rom (laneMid cmd)) (laneIn d rom (laneLo cmd)) with
      | .error k => k.status.code ++ op ++ 0x000000#24
      | .ok r => 0x0#4 ++ op ++ 0x00#8 ++ r.extractLsb' 8 8 ++ r.extractLsb' 0 8
    | _ =>
      match dec3 (laneIn d rom (laneMid cmd)) (laneIn d rom (laneLo cmd)) (some fillerDigit) with
      | .error k => k.status.code ++ op ++ 0x000000#24
      | .ok r => 0x0#4 ++ op ++ 0x0000#16 ++ r.extractLsb' 0 8
  else 0x4#4 ++ op ++ 0x000000#24

end Sys2Proof.Machine
end

