-- ==== Sys2Proof/Machine/Stream.lean ====
section
/-! DEFINITION. The host's whole-stream functions ENCS and DECS (spec/45_stream_pseudo.md): the commands each issues, and
how the responses are put together. -/

namespace Sys2Proof.Machine

/-- R171: one ENCW for each 2-byte group, and an ENCB for the trailing byte of an odd length. -/
def encsCommands : List Byte → List Instr
  | [] => []
  | [b] => [.encb b]
  | b0 :: b1 :: rest => .encw (wordOfBytes b0 b1) :: encsCommands rest

/-- R172: the characters in one response: three of an ENCW, two of an ENCB, told apart by the op echo (R72). -/
def rspText (rsp : Rsp) : List Lane :=
  match rspOp rsp with
  | 0x1#4 => [rspHi rsp, rspMid rsp, rspLo rsp]
  | 0x2#4 => [rspMid rsp, rspLo rsp]
  | _ => []

/-- R172: the output text of ENCS, from the responses in issue order. -/
def encsText (rsps : List Rsp) : List Lane := rsps.flatMap rspText

/-- R171, R172: ENCS on a block with this ROM. -/
def encs (rom : Vector Byte 45) (bytes : List Byte) : List Lane :=
  encsText ((encsCommands bytes).map (fun i => blockFunction rom (encode i)))

/-- R174: the lane codes of a text given by the codes of its characters. -/
def decsLanes (text : List Nat) : List Lane := text.map laneOfChar

/-- R175: one DECT for each 3-character group, a DECP for a trailing pair, nothing for a trailing character. -/
def decsCommands : List Lane → List Instr
  | [] => []
  | [_] => []
  | [l1, l2] => [.decp l1 l2]
  | l1 :: l2 :: l3 :: rest => .dect l1 l2 l3 :: decsCommands rest

/-- R176: the bytes in one response: two of a DECT, high byte first, one of a DECP, told apart by the op echo (R72). -/
def rspBytes (rsp : Rsp) : List Byte :=
  match rspOp rsp with
  | 0x3#4 => [rspMid rsp, rspLo rsp]
  | 0x4#4 => [rspLo rsp]
  | _ => []

/-- R176, R177: how a DECS ends. -/
inductive DecsResult where
  /-- R176: the output bytes. -/
  | bytes (out : List Byte)
  /-- R177: the error it reports, and no bytes at all. -/
  | error (status : Status)
  /-- R208: a response carried a status that the block never produces. -/
  | blockFault
  deriving DecidableEq, Repr

/-- R177: what the host reports for a response whose status is not OK. -/
def decsError (rsp : Rsp) : DecsResult :=
  if statusProduced (rspStatus rsp) then
    match Status.ofCode (rspStatus rsp) with
    | some status => .error status
    | none => .blockFault
  else .blockFault

/-- R176, R177: the result of a DECS on a text of `m` characters, from the responses in issue order: the status of the
first that is not OK, else InvalidLength when `m mod 3 = 1`, else the bytes. -/
def decsResult (m : Nat) (rsps : List Rsp) : DecsResult :=
  match rsps.find? (fun r => rspStatus r != 0x0#4) with
  | some r => decsError r
  | none => if m % 3 = 1 then .error .invalidLength else .bytes (rsps.flatMap rspBytes)

/-- R175 to R177: DECS on a block with this ROM, of lane codes. -/
def decs (rom : Vector Byte 45) (lanes : List Lane) : DecsResult :=
  decsResult lanes.length ((decsCommands lanes).map (fun i => blockFunction rom (encode i)))

/-- R170: the command words of a host loop, in issue order. -/
def programOf (instrs : List Instr) : List Cmd := instrs.map encode

end Sys2Proof.Machine
end

