-- ==== Sys2Proof/Machine/Assembler.lean ====
section
/-! DEFINITION. The spec's assembler on parsed lines (R75, R76): the command words of a line, or a refusal of an operand
that does not fit its field. How numbers and quoted texts are spelled is notation and is not modelled (log entry 19). -/

namespace Sys2Proof.Machine

/-- A number as an 8-bit lane. -/
def lane8 (n : Nat) : Lane := BitVec.ofNat 8 n

/-- R75, R76: the command words a well-formed line stands for. -/
def asmCommands : AsmLine → List Cmd
  | .encw w => [encode (.encw (BitVec.ofNat 16 w))]
  | .encb b => [encode (.encb (lane8 b))]
  | .dect l1 l2 l3 => [encode (.dect (lane8 l1) (lane8 l2) (lane8 l3))]
  | .dectText [l1, l2, l3] => [encode (.dect (lane8 l1) (lane8 l2) (lane8 l3))]
  | .dectText _ => []
  | .decp l1 l2 => [encode (.decp (lane8 l1) (lane8 l2))]
  | .decpText [l1, l2] => [encode (.decp (lane8 l1) (lane8 l2))]
  | .decpText _ => []
  | .encwd w => [encode (.encwd (BitVec.ofNat 16 w))]
  | .encbd b => [encode (.encbd (lane8 b))]
  | .dectd l1 l2 l3 => [encode (.dectd (lane8 l1) (lane8 l2) (lane8 l3))]
  | .decpd l1 l2 => [encode (.decpd (lane8 l1) (lane8 l2))]
  | .word v => [BitVec.ofNat 32 v]
  | .encs bytes => programOf (encsCommands (bytes.map lane8))
  | .decs text => programOf (decsCommands (decsLanes text))

/-- R75: "An assembler refuses an operand that does not fit its field." -/
def assemble (line : AsmLine) : Option (List Cmd) :=
  if line.wellFormed then some (asmCommands line) else none

end Sys2Proof.Machine
end

