-- ==== Sys2Proof/Safety.lean ====
section
/-! DEFINITION. What the claims are stated in: the invariant of the channels, what it is to be
ready and to be answered, and the action system of R29. -/

namespace Sys2Proof.Machine

/-- What holds of the channels in every state that a run reaches. -/
structure State.Inv (s : State) : Prop where
  /-- R27: `len(Q) <= DEPTH`. -/
  room : s.q.length ≤ Config.depth
  /-- R26, R43: the ROM holds the alphabet. -/
  rom : s.rom = alphabet
  /-- R32, R231: in reset nothing is in flight and nothing has been exchanged. -/
  quiet : s.inReset = true → s.q = [] ∧ s.host.issued = [] ∧ s.host.received = []
  /-- R47: the responses received, then those in flight, are those of the commands accepted, in acceptance order. -/
  order : s.host.received ++ s.q.map InFlight.rsp = s.host.issued.map (blockFunction alphabet)
  /-- R22: what the host has seen on offer is still on offer. -/
  steady : ∀ r, s.host.seen = some r → s.offered = some r

/-- R29, R30: a command that is offered is accepted: not in reset, `len(Q) < DEPTH`, `cmd_ready` driven high. -/
structure State.Ready (s : State) : Prop where
  released : s.inReset = false
  room : s.q.length < Config.depth
  ready : s.readyWait = 0

/-- R29 `Accept(cmd)` with the response `rsp`, and its frame: `rsp` is appended to `Q`, to wait at least LATENCY cycles
(R31); the command joins the host's record of those accepted and is held no longer; nothing else changes. -/
structure Answered (s : State) (cmd : Cmd) (rsp : Rsp) (s' : State) : Prop where
  queue : ∃ w, Config.latency ≤ w ∧ s'.q = s.q ++ [{ rsp := rsp, wait := w }]
  inReset : s'.inReset = s.inReset
  rom : s'.rom = s.rom
  readyWait : s'.readyWait = s.readyWait
  draw : s'.draw = s.draw
  host : s'.host = { s.host with held := none, issued := s.host.issued ++ [cmd] }

/-- R41, R122: the index of a lane: the digit itself in digit mode, the position of the character otherwise. -/
def laneHasIndex (digitMode : Bool) (l : Lane) (i : Digit) : Prop :=
  if digitMode then l.toNat = i.val else alphabet[i] = l

/-- R201: the lane has no index. -/
def laneHasNone (digitMode : Bool) (l : Lane) : Prop := ∀ i : Digit, ¬ laneHasIndex digitMode l i

/-- An event that is no reset. -/
def HostEvent.noReset : HostEvent → Bool
  | .edge e => !e.rst
  | .clockStop => true

/-- An event at which the host can take a response, and no reset. -/
def HostEvent.takes : HostEvent → Bool
  | .edge e => !e.rst && e.rspReady
  | .clockStop => false

/-- R29: the state `(Q, in_reset)` of the transition system. -/
structure View where
  queue : List Rsp
  inReset : Bool
  deriving DecidableEq, Repr

/-- R29: what the transition system sees of a state. -/
def State.view (s : State) : View := { queue := s.q.map InFlight.rsp, inReset := s.inReset }

/-- R29: the actions. -/
inductive BlockAction where
  | accept (cmd : Cmd)
  | deliver
  | resetAssert
  | resetRelease
  deriving DecidableEq, Repr

/-- R29: the state after an action, or none where what the action requires of the state `(Q, in_reset)` fails; what it
requires of the pins is `State.pinsAllow`. -/
def View.act (rom : Vector Byte 45) (v : View) : BlockAction → Option View
  | .accept cmd =>
    if !v.inReset && decide (v.queue.length < Config.depth) then
      some { v with queue := v.queue ++ [blockFunction rom cmd] }
    else none
  | .deliver =>
    if v.inReset then none
    else
      match v.queue with
      | [] => none
      | _ :: rest => some { v with queue := rest }
  | .resetAssert => some { queue := [], inReset := true }
  | .resetRelease => if v.inReset then some { v with inReset := false } else none

/-- R29: the state after a list of actions, the first taken first. -/
def View.acts (rom : Vector Byte 45) : View → List BlockAction → Option View
  | v, [] => some v
  | v, a :: rest =>
    match v.act rom a with
    | some v' => v'.acts rom rest
    | none => none

/-- R29, R31: the actions one rising edge may take: a reset alone, or at most one release, one acceptance and one
delivery, the delivery only of a response that was in the queue before the edge. R29 leaves their order open; this one
is log entry 3. -/
def edgeActions (v : View) (as : List BlockAction) : Prop :=
  as = [.resetAssert] ∨
    ∃ r a d : List BlockAction, as = r ++ a ++ d ∧ (r = [] ∨ r = [.resetRelease]) ∧
      (a = [] ∨ ∃ cmd, a = [.accept cmd]) ∧ (d = [] ∨ d = [.deliver] ∧ v.queue ≠ [])

/-- R21, R22, R29, R230: what the pins must carry at the edge for an action: for an acceptance `rst = 0`, `cmd_ready` and
`cmd_valid` high and the word on `cmd_data`; for a delivery `rst = 0` and `rsp_valid` and `rsp_ready` high. -/
def State.pinsAllow (s : State) (e : Edge) : BlockAction → Prop
  | .accept cmd => e.rst = false ∧ s.cmdReady e.rst = true ∧ e.cmdValid = true ∧ e.cmdData = some cmd
  | .deliver => e.rst = false ∧ s.rspValid e.rst = true ∧ e.rspReady = true
  | .resetAssert => e.rst = true
  | .resetRelease => e.rst = false

/-- The state reached by `n` edges, if none of them stops. -/
def runEdges : Nat → State → Host.Outcome State Fault Refusal
  | 0, s => .next s
  | n + 1, s =>
    match step s with
    | .next t => runEdges n t
    | .fault f => .fault f
    | .refused r => .refused r

end Sys2Proof.Machine
end

