-- ==== Sys2Proof/Certificates/Slice0/Obligations.lean ====
section
/-! DEFINITION. The statements for the provers, each a reading of rules of spec/. -/

open Sys2Proof Sys2Proof.Machine

/-! ### Encoding -/

/-- R61: words written out bit by bit from the patterns of the rule decode to the commands they stand for. -/
def Obligations.WordsOfTheEncodingsDecode : Prop :=
  decode 0b00010000000000000100000101000010#32 = .ok (.encw 0x4142#16) ∧
  decode 0b00100000000000000000000000100001#32 = .ok (.encb 0x21#8) ∧
  decode 0b00110000010000100100001000111000#32 = .ok (.dect 0x42#8 0x42#8 0x38#8) ∧
  decode 0b01000000000000000101100000110000#32 = .ok (.decp 0x58#8 0x30#8) ∧
  decode 0b10010000000000001111111111111111#32 = .ok (.encwd 0xFFFF#16) ∧
  decode 0b10100000000000000000000011111111#32 = .ok (.encbd 0xFF#8) ∧
  decode 0b10110000000011110001000000100000#32 = .ok (.dectd 15#8 16#8 32#8) ∧
  decode 0b11000000000000000001111000000101#32 = .ok (.decpd 30#8 5#8)

/-- R60, R61: no bit of an encoding is dropped: every command decodes from its own encoding. -/
def Obligations.DecodeOfEncodeIsTheCommand : Prop :=
  ∀ i : Instr, decode (encode i) = .ok i

/-- R61, R65: a word that decodes is the encoding of what it decodes to, so each command has one word only. -/
def Obligations.EncodeOfDecodeIsTheWord : Prop :=
  ∀ (cmd : Cmd) (i : Instr), decode cmd = .ok i → encode i = cmd

/-- R66: LEGAL as the rule's case list gives it; exactly the words that some row of the opcode table matches are legal,
and at most one row matches; the words that decode are the legal ones, and decode to the command of their row. -/
def Obligations.LegalWordsMatchExactlyOneRow : Prop :=
  ∀ cmd : Cmd,
    (legal cmd = true ↔
      cmd.extractLsb' 24 4 = 0#4 ∧
        ((cmd.extractLsb' 28 4 ∈ [0x1#4, 0x9#4, 0x4#4, 0xC#4] ∧ cmd.extractLsb' 16 8 = 0#8) ∨
          (cmd.extractLsb' 28 4 ∈ [0x2#4, 0xA#4] ∧ cmd.extractLsb' 8 16 = 0#16) ∨
          cmd.extractLsb' 28 4 ∈ [0x3#4, 0xB#4])) ∧
    (legal cmd = true ↔ ∃ row ∈ opcodeTable, row.matches cmd = true) ∧
    (∀ r₁ ∈ opcodeTable, ∀ r₂ ∈ opcodeTable, r₁.matches cmd = true → r₂.matches cmd = true → r₁ = r₂) ∧
    (legal cmd = true ↔ ∃ i, decode cmd = .ok i) ∧
    (∀ i, decode cmd = .ok i → ∃ row ∈ opcodeTable, row.matches cmd = true ∧ row.mnemonic = i.mnemonic)

/-- R64, R65, R204: the words that are IllegalCommand are those with a nonzero `rsv`, an unassigned `op`, or a nonzero
must-be-zero operand bit; each is accepted and answered with status 4, its own `op`, and nothing else. -/
def Obligations.IllegalWordsAreAnsweredIllegalCommand : Prop :=
  ∀ cmd : Cmd,
    (legal cmd = false ↔
      cmd.extractLsb' 24 4 ≠ 0#4 ∨
        cmd.extractLsb' 28 4 ∈ [0x0#4, 0x5#4, 0x6#4, 0x7#4, 0x8#4, 0xD#4, 0xE#4, 0xF#4] ∨
        (cmd.extractLsb' 28 4 ∈ [0x1#4, 0x9#4, 0x4#4, 0xC#4] ∧ cmd.extractLsb' 16 8 ≠ 0#8) ∨
        (cmd.extractLsb' 28 4 ∈ [0x2#4, 0xA#4] ∧ cmd.extractLsb' 8 16 ≠ 0#16)) ∧
    (legal cmd = false → ∀ s : State, s.Ready →
      ∃ s', runCommand cmd s = .next s' ∧ Answered s cmd (0x4#4 ++ cmd.extractLsb' 28 4 ++ 0x000000#24) s')

/-! ### The eight commands, each rule whole: encoding, result and frame, exceptions, corner cases, example -/

/-- R103. -/
def Obligations.EncwAnswersThreeCharacters : Prop :=
  (∀ cmd : Cmd, cmd &&& 0xFFFF0000#32 = 0x10000000#32 → decode cmd = .ok (.encw (cmd.extractLsb' 0 16))) ∧
  (∀ (w : Word) (s : State) (c d e : Digit), s.Ready →
    c.val = w.toNat % 45 → d.val = w.toNat / 45 % 45 → e.val = w.toNat / 45 / 45 →
    ∃ s', exec (.encw w) s = .next s' ∧
      Answered s (encode (.encw w)) (0x0#4 ++ 0x1#4 ++ s.rom[c] ++ s.rom[d] ++ s.rom[e]) s') ∧
  (∀ (cmd : Cmd) (s : State), s.Ready → cmd.extractLsb' 28 4 = 0x1#4 → cmd.extractLsb' 16 12 ≠ 0#12 →
    ∃ s', runCommand cmd s = .next s' ∧ Answered s cmd 0x41000000#32 s') ∧
  (∀ s : State, s.Ready → s.rom = alphabet →
    ∀ p ∈ [(0#16, 0x01303030#32), (44#16, 0x013A3030#32), (45#16, 0x01303130#32), (2024#16, 0x013A3A30#32),
        (2025#16, 0x01303031#32), (65535#16, 0x01464757#32), (0x4142#16, 0x01424238#32)],
      ∃ s', exec (.encw p.1) s = .next s' ∧ Answered s (encode (.encw p.1)) p.2 s') ∧
  encode (.encw 0x4142#16) = 0x10004142#32

/-- R104. -/
def Obligations.EncwdAnswersThreeDigits : Prop :=
  (∀ cmd : Cmd, cmd &&& 0xFFFF0000#32 = 0x90000000#32 → decode cmd = .ok (.encwd (cmd.extractLsb' 0 16))) ∧
  (∀ (w : Word) (s : State), s.Ready →
    ∃ s', exec (.encwd w) s = .next s' ∧
      Answered s (encode (.encwd w))
        (0x0#4 ++ 0x9#4 ++ BitVec.ofNat 8 (w.toNat % 45) ++ BitVec.ofNat 8 (w.toNat / 45 % 45) ++
          BitVec.ofNat 8 (w.toNat / 45 / 45)) s' ∧
      w.toNat % 45 ≤ 0x2C ∧ w.toNat / 45 % 45 ≤ 0x2C ∧ w.toNat / 45 / 45 ≤ 0x20) ∧
  (∀ (cmd : Cmd) (s : State), s.Ready → cmd.extractLsb' 28 4 = 0x9#4 → cmd.extractLsb' 16 12 ≠ 0#12 →
    ∃ s', runCommand cmd s = .next s' ∧ Answered s cmd 0x49000000#32 s') ∧
  (∀ s : State, s.Ready →
    ∀ p ∈ [(0#16, 0x09000000#32), (44#16, 0x092C0000#32), (45#16, 0x09000100#32), (2024#16, 0x092C2C00#32),
        (2025#16, 0x09000001#32), (0xFFFF#16, 0x090F1020#32)],
      ∃ s', exec (.encwd p.1) s = .next s' ∧ Answered s (encode (.encwd p.1)) p.2 s') ∧
  encode (.encwd 0xFFFF#16) = 0x9000FFFF#32

/-- R150. -/
def Obligations.EncbAnswersTwoCharacters : Prop :=
  (∀ cmd : Cmd, cmd &&& 0xFFFFFF00#32 = 0x20000000#32 → decode cmd = .ok (.encb (cmd.extractLsb' 0 8))) ∧
  (∀ (b : Byte) (s : State) (c d : Digit), s.Ready → c.val = b.toNat % 45 → d.val = b.toNat / 45 →
    ∃ s', exec (.encb b) s = .next s' ∧
      Answered s (encode (.encb b)) (0x0#4 ++ 0x2#4 ++ 0x00#8 ++ s.rom[c] ++ s.rom[d]) s') ∧
  (∀ (cmd : Cmd) (s : State), s.Ready → cmd.extractLsb' 28 4 = 0x2#4 → cmd.extractLsb' 8 20 ≠ 0#20 →
    ∃ s', runCommand cmd s = .next s' ∧ Answered s cmd 0x42000000#32 s') ∧
  (∀ s : State, s.Ready → s.rom = alphabet →
    ∀ p ∈ [(0x00#8, 0x02003030#32), (0x2C#8, 0x02003A30#32), (0x2D#8, 0x02003031#32), (0xFF#8, 0x02005535#32),
        (0x21#8, 0x02005830#32)],
      ∃ s', exec (.encb p.1) s = .next s' ∧ Answered s (encode (.encb p.1)) p.2 s') ∧
  encode (.encb 0x21#8) = 0x20000021#32

/-- R151. -/
def Obligations.EncbdAnswersTwoDigits : Prop :=
  (∀ cmd : Cmd, cmd &&& 0xFFFFFF00#32 = 0xA0000000#32 → decode cmd = .ok (.encbd (cmd.extractLsb' 0 8))) ∧
  (∀ (b : Byte) (s : State), s.Ready →
    ∃ s', exec (.encbd b) s = .next s' ∧
      Answered s (encode (.encbd b))
        (0x0#4 ++ 0xA#4 ++ 0x00#8 ++ BitVec.ofNat 8 (b.toNat % 45) ++ BitVec.ofNat 8 (b.toNat / 45)) s' ∧
      b.toNat % 45 ≤ 0x2C ∧ b.toNat / 45 ≤ 0x05) ∧
  (∀ (cmd : Cmd) (s : State), s.Ready → cmd.extractLsb' 28 4 = 0xA#4 → cmd.extractLsb' 8 20 ≠ 0#20 →
    ∃ s', runCommand cmd s = .next s' ∧ Answered s cmd 0x4A000000#32 s') ∧
  (∀ s : State, s.Ready →
    ∀ p ∈ [(0x00#8, 0x0A000000#32), (0x2C#8, 0x0A002C00#32), (0x2D#8, 0x0A000001#32), (0xFF#8, 0x0A001E05#32)],
      ∃ s', exec (.encbd p.1) s = .next s' ∧ Answered s (encode (.encbd p.1)) p.2 s') ∧
  encode (.encbd 0xFF#8) = 0xA00000FF#32

/-- R125. -/
def Obligations.DectAnswersTheWordOrItsError : Prop :=
  (∀ cmd : Cmd, cmd &&& 0xFF000000#32 = 0x30000000#32 →
    decode cmd = .ok (.dect (cmd.extractLsb' 16 8) (cmd.extractLsb' 8 8) (cmd.extractLsb' 0 8))) ∧
  (∀ (l1 l2 l3 : Lane) (s : State), s.Ready → s.rom = alphabet →
    ((∃ l ∈ [l1, l2, l3], ∀ i : Digit, alphabet[i] ≠ l) →
      ∃ s', exec (.dect l1 l2 l3) s = .next s' ∧ Answered s (encode (.dect l1 l2 l3)) 0x23000000#32 s') ∧
    (∀ i1 i2 i3 : Digit, alphabet[i1] = l1 → alphabet[i2] = l2 → alphabet[i3] = l3 →
      (65535 < i1.val + 45 * i2.val + 2025 * i3.val →
        ∃ s', exec (.dect l1 l2 l3) s = .next s' ∧ Answered s (encode (.dect l1 l2 l3)) 0x33000000#32 s') ∧
      (i1.val + 45 * i2.val + 2025 * i3.val ≤ 65535 →
        ∃ s', exec (.dect l1 l2 l3) s = .next s' ∧
          Answered s (encode (.dect l1 l2 l3))
            (0x0#4 ++ 0x3#4 ++ 0x00#8 ++ BitVec.ofNat 16 (i1.val + 45 * i2.val + 2025 * i3.val)) s'))) ∧
  (∀ (cmd : Cmd) (s : State), s.Ready → cmd.extractLsb' 28 4 = 0x3#4 → cmd.extractLsb' 24 4 ≠ 0#4 →
    ∃ s', runCommand cmd s = .next s' ∧ Answered s cmd 0x43000000#32 s') ∧
  (∀ s : State, s.Ready → s.rom = alphabet →
    ∀ p ∈ [(0x30#8, 0x30#8, 0x30#8, 0x03000000#32), (0x46#8, 0x47#8, 0x57#8, 0x0300FFFF#32),
        (0x47#8, 0x47#8, 0x57#8, 0x33000000#32), (0x3A#8, 0x3A#8, 0x3A#8, 0x33000000#32),
        (0x30#8, 0x30#8, 0x58#8, 0x33000000#32), (0x30#8, 0x3A#8, 0x57#8, 0x33000000#32),
        (0x58#8, 0x30#8, 0x57#8, 0x0300FD41#32), (0x5F#8, 0x3A#8, 0x3A#8, 0x23000000#32),
        (0x61#8, 0x30#8, 0x30#8, 0x23000000#32), (0x42#8, 0x42#8, 0x38#8, 0x03004142#32)],
      ∃ s', exec (.dect p.1 p.2.1 p.2.2.1) s = .next s' ∧
        Answered s (encode (.dect p.1 p.2.1 p.2.2.1)) p.2.2.2 s') ∧
  encode (.dect 0x42#8 0x42#8 0x38#8) = 0x30424238#32

/-- R126. -/
def Obligations.DectdAnswersTheWordOrItsError : Prop :=
  (∀ cmd : Cmd, cmd &&& 0xFF000000#32 = 0xB0000000#32 →
    decode cmd = .ok (.dectd (cmd.extractLsb' 16 8) (cmd.extractLsb' 8 8) (cmd.extractLsb' 0 8))) ∧
  (∀ (l1 l2 l3 : Lane) (s : State), s.Ready →
    ((∃ l ∈ [l1, l2, l3], 44 < l.toNat) →
      ∃ s', exec (.dectd l1 l2 l3) s = .next s' ∧ Answered s (encode (.dectd l1 l2 l3)) 0x2B000000#32 s') ∧
    (l1.toNat ≤ 44 → l2.toNat ≤ 44 → l3.toNat ≤ 44 →
      (65535 < l1.toNat + 45 * l2.toNat + 2025 * l3.toNat →
        ∃ s', exec (.dectd l1 l2 l3) s = .next s' ∧ Answered s (encode (.dectd l1 l2 l3)) 0x3B000000#32 s') ∧
      (l1.toNat + 45 * l2.toNat + 2025 * l3.toNat ≤ 65535 →
        ∃ s', exec (.dectd l1 l2 l3) s = .next s' ∧
          Answered s (encode (.dectd l1 l2 l3))
            (0x0#4 ++ 0xB#4 ++ 0x00#8 ++ BitVec.ofNat 16 (l1.toNat + 45 * l2.toNat + 2025 * l3.toNat)) s'))) ∧
  (∀ (cmd : Cmd) (s : State), s.Ready → cmd.extractLsb' 28 4 = 0xB#4 → cmd.extractLsb' 24 4 ≠ 0#4 →
    ∃ s', runCommand cmd s = .next s' ∧ Answered s cmd 0x4B000000#32 s') ∧
  (∀ s : State, s.Ready →
    ∀ p ∈ [(0#8, 0#8, 0#8, 0x0B000000#32), (15#8, 16#8, 32#8, 0x0B00FFFF#32), (16#8, 16#8, 32#8, 0x3B000000#32),
        (44#8, 44#8, 44#8, 0x3B000000#32), (45#8, 0#8, 0#8, 0x2B000000#32), (255#8, 0#8, 0#8, 0x2B000000#32)],
      ∃ s', exec (.dectd p.1 p.2.1 p.2.2.1) s = .next s' ∧
        Answered s (encode (.dectd p.1 p.2.1 p.2.2.1)) p.2.2.2 s') ∧
  encode (.dectd 15#8 16#8 32#8) = 0xB00F1020#32

/-- R152. -/
def Obligations.DecpAnswersTheByteOrItsError : Prop :=
  (∀ cmd : Cmd, cmd &&& 0xFFFF0000#32 = 0x40000000#32 →
    decode cmd = .ok (.decp (cmd.extractLsb' 8 8) (cmd.extractLsb' 0 8))) ∧
  (∀ (l1 l2 : Lane) (s : State), s.Ready → s.rom = alphabet →
    ((∃ l ∈ [l1, l2], ∀ i : Digit, alphabet[i] ≠ l) →
      ∃ s', exec (.decp l1 l2) s = .next s' ∧ Answered s (encode (.decp l1 l2)) 0x24000000#32 s') ∧
    (∀ i1 i2 : Digit, alphabet[i1] = l1 → alphabet[i2] = l2 →
      ∃ s', exec (.decp l1 l2) s = .next s' ∧
        Answered s (encode (.decp l1 l2)) (0x0#4 ++ 0x4#4 ++ 0x0000#16 ++ BitVec.ofNat 8 (i1.val + 45 * i2.val)) s')) ∧
  (∀ (cmd : Cmd) (s : State), s.Ready → cmd.extractLsb' 28 4 = 0x4#4 → cmd.extractLsb' 16 12 ≠ 0#12 →
    ∃ s', runCommand cmd s = .next s' ∧ Answered s cmd 0x44000000#32 s') ∧
  (∀ s : State, s.Ready → s.rom = alphabet →
    ∀ p ∈ [(0x30#8, 0x30#8, 0x04000000#32), (0x55#8, 0x35#8, 0x040000FF#32), (0x56#8, 0x35#8, 0x04000000#32),
        (0x3A#8, 0x3A#8, 0x040000E8#32), (0x30#8, 0x3A#8, 0x040000BC#32), (0x5F#8, 0x30#8, 0x24000000#32),
        (0x61#8, 0x23#8, 0x24000000#32), (0x5F#8, 0x61#8, 0x24000000#32), (0x58#8, 0x30#8, 0x04000021#32)],
      ∃ s', exec (.decp p.1 p.2.1) s = .next s' ∧ Answered s (encode (.decp p.1 p.2.1)) p.2.2 s') ∧
  encode (.decp 0x58#8 0x30#8) = 0x40005830#32

/-- R153. -/
def Obligations.DecpdAnswersTheByteOrItsError : Prop :=
  (∀ cmd : Cmd, cmd &&& 0xFFFF0000#32 = 0xC0000000#32 →
    decode cmd = .ok (.decpd (cmd.extractLsb' 8 8) (cmd.extractLsb' 0 8))) ∧
  (∀ (l1 l2 : Lane) (s : State), s.Ready →
    ((∃ l ∈ [l1, l2], 44 < l.toNat) →
      ∃ s', exec (.decpd l1 l2) s = .next s' ∧ Answered s (encode (.decpd l1 l2)) 0x2C000000#32 s') ∧
    (l1.toNat ≤ 44 → l2.toNat ≤ 44 →
      ∃ s', exec (.decpd l1 l2) s = .next s' ∧
        Answered s (encode (.decpd l1 l2))
          (0x0#4 ++ 0xC#4 ++ 0x0000#16 ++ BitVec.ofNat 8 (l1.toNat + 45 * l2.toNat)) s')) ∧
  (∀ (cmd : Cmd) (s : State), s.Ready → cmd.extractLsb' 28 4 = 0xC#4 → cmd.extractLsb' 16 12 ≠ 0#12 →
    ∃ s', runCommand cmd s = .next s' ∧ Answered s cmd 0x4C000000#32 s') ∧
  (∀ s : State, s.Ready →
    ∀ p ∈ [(30#8, 5#8, 0x0C0000FF#32), (31#8, 5#8, 0x0C000000#32), (44#8, 44#8, 0x0C0000E8#32),
        (45#8, 0#8, 0x2C000000#32), (0#8, 45#8, 0x2C000000#32)],
      ∃ s', exec (.decpd p.1 p.2.1) s = .next s' ∧ Answered s (encode (.decpd p.1 p.2.1)) p.2.2 s') ∧
  encode (.decpd 30#8 5#8) = 0xC0001E05#32

/-- R21, R30: a command offered while the block is in reset, full or not ready is turned away: it waits, held by the
host, and nothing else changes (the model's record of the held command: log entry 15). -/
def Obligations.CommandsWaitWhileTheBlockIsNotReady : Prop :=
  ∀ (i : Instr) (s : State), ¬ s.Ready →
    exec i s = .next { s with host := { s.host with held := some (encode i) } }

/-- R43, R49: what every command leaves unchanged, in every state. That a command has two outcomes, accepted or
recorded as held by the host, is the model's choice (log entry 15). -/
def Obligations.CommandsLeaveTheRestUnchanged : Prop :=
  ∀ (i : Instr) (s s' : State), exec i s = .next s' →
    s'.rom = s.rom ∧ s'.inReset = s.inReset ∧ s'.readyWait = s.readyWait ∧ s'.draw = s.draw ∧
    s'.host.script = s.host.script ∧ s'.host.program = s.host.program ∧ s'.host.seen = s.host.seen ∧
    s'.host.received = s.host.received ∧
    ((s'.q = s.q ∧ s'.host.issued = s.host.issued ∧ s'.host.held = some (encode i)) ∨
      (∃ x, s'.q = s.q ++ [x] ∧ s'.host.issued = s.host.issued ++ [encode i] ∧ s'.host.held = none))

/-! ### The block function and its laws -/

/-- R28, R140: whatever command word is accepted, the entry of `Q` is `EXEC(cmd)`. -/
def Obligations.EveryCommandIsAnsweredByTheBlockFunction : Prop :=
  ∀ (cmd : Cmd) (s : State), s.Ready →
    ∃ s', runCommand cmd s = .next s' ∧ Answered s cmd (blockFunction s.rom cmd) s'

/-- R72: every response, of a legal command or not, carries the op of its command. -/
def Obligations.ResponsesEchoTheirOp : Prop :=
  ∀ (cmd : Cmd) (s : State), s.Ready →
    ∃ s' rsp, runCommand cmd s = .next s' ∧ Answered s cmd rsp s' ∧ rsp.extractLsb' 24 4 = cmd.extractLsb' 28 4

/-- R201, R202, R205: at most one error for a command: IllegalCommand first, then InvalidCharacter, then InvalidCode, each
exactly when its cause holds; on an error the data is zero, so nothing more is recorded. -/
def Obligations.ErrorsComeInTheirPriority : Prop :=
  ∀ (cmd : Cmd) (s : State), s.Ready → s.rom = alphabet →
    ∃ s' rsp, runCommand cmd s = .next s' ∧ Answered s cmd rsp s' ∧
      (legal cmd = false → rsp.extractLsb' 28 4 = 0x4#4) ∧
      (legal cmd = true →
        ((cmd.extractLsb' 28 3 = 1#3 ∨ cmd.extractLsb' 28 3 = 2#3) → rsp.extractLsb' 28 4 = 0x0#4) ∧
        (cmd.extractLsb' 28 3 = 3#3 →
          ((∃ l ∈ [laneHi cmd, laneMid cmd, laneLo cmd], laneHasNone (cmd.getLsbD 31) l) →
            rsp.extractLsb' 28 4 = 0x2#4) ∧
          (∀ i1 i2 i3 : Digit, laneHasIndex (cmd.getLsbD 31) (laneHi cmd) i1 →
            laneHasIndex (cmd.getLsbD 31) (laneMid cmd) i2 → laneHasIndex (cmd.getLsbD 31) (laneLo cmd) i3 →
            (65535 < i1.val + 45 * i2.val + 2025 * i3.val → rsp.extractLsb' 28 4 = 0x3#4) ∧
            (i1.val + 45 * i2.val + 2025 * i3.val ≤ 65535 → rsp.extractLsb' 28 4 = 0x0#4))) ∧
        (cmd.extractLsb' 28 3 = 4#3 →
          ((∃ l ∈ [laneMid cmd, laneLo cmd], laneHasNone (cmd.getLsbD 31) l) → rsp.extractLsb' 28 4 = 0x2#4) ∧
          (∀ i1 i2 : Digit, laneHasIndex (cmd.getLsbD 31) (laneMid cmd) i1 →
            laneHasIndex (cmd.getLsbD 31) (laneLo cmd) i2 → rsp.extractLsb' 28 4 = 0x0#4))) ∧
      (rsp.extractLsb' 28 4 ≠ 0x0#4 → rsp.extractLsb' 0 24 = 0#24)

/-- R105: the encoder has no error path, whatever the ROM holds. -/
def Obligations.EncodersAlwaysAnswerOk : Prop :=
  ∀ (i : Instr) (s : State), s.Ready →
    ((∃ w, i = .encw w) ∨ (∃ w, i = .encwd w) ∨ (∃ b, i = .encb b) ∨ (∃ b, i = .encbd b)) →
    ∃ s' rsp, exec i s = .next s' ∧ Answered s (encode i) rsp s' ∧ rsp.extractLsb' 28 4 = 0x0#4

/-- R49, R200: a response depends on its own command and the ROM only: in any two states it is the same word, whatever
came before. -/
def Obligations.ResponsesDependOnlyOnTheirCommand : Prop :=
  ∀ (cmd : Cmd) (s t : State), s.Ready → t.Ready → s.rom = t.rom →
    ∃ rsp s' t', runCommand cmd s = .next s' ∧ runCommand cmd t = .next t' ∧
      Answered s cmd rsp s' ∧ Answered t cmd rsp t'

/-! ### The datapaths -/

/-- R100: the four arithmetic steps and their ranges. -/
def Obligations.EncoderStepsAndTheirRanges : Prop :=
  ∀ w : Word,
    (enc16 w).c.val = w.toNat % 45 ∧ (enc16 w).d.val = w.toNat / 45 % 45 ∧ (enc16 w).e.val = w.toNat / 45 / 45 ∧
    (enc16 w).c.val ≤ 44 ∧ w.toNat / 45 ≤ 1456 ∧ (enc16 w).d.val ≤ 44 ∧ (enc16 w).e.val ≤ 32

/-- R102: the laws of the encoder's triple; the value is the Word, the digits' bounds, the third character, uniqueness,
and where the third digit is 32. -/
def Obligations.EncoderTripleLaws : Prop :=
  ∀ w : Word,
    w.toNat = (enc16 w).c.val + 45 * (enc16 w).d.val + 45 * 45 * (enc16 w).e.val ∧
    (enc16 w).c.val ≤ 44 ∧ (enc16 w).d.val ≤ 44 ∧ (enc16 w).e.val ≤ 32 ∧
    ((0x30 ≤ (alphabet[(enc16 w).e]).toNat ∧ (alphabet[(enc16 w).e]).toNat ≤ 0x39) ∨
      (0x41 ≤ (alphabet[(enc16 w).e]).toNat ∧ (alphabet[(enc16 w).e]).toNat ≤ 0x57)) ∧
    (∀ c d e : Digit, c.val + 45 * d.val + 45 * 45 * e.val = w.toNat → enc16 w = { c := c, d := d, e := e }) ∧
    ((enc16 w).e.val = 32 → 64800 ≤ w.toNat)

/-- R120: the two forms of the weighted sum, its range, and the range check on bit 16. -/
def Obligations.WeightedSumFormsAndRange : Prop :=
  ∀ i1 i2 i3 : Digit,
    weightedSum i1 i2 i3 = i1.val + 45 * i2.val + 2025 * i3.val ∧
    weightedSum i1 i2 i3 = i1.val + 45 * (i2.val + 45 * i3.val) ∧
    45 * i2.val ≤ 1980 ∧ 2025 * i3.val ≤ 89100 ∧ weightedSum i1 i2 i3 ≤ 91124 ∧
    (65535 < weightedSum i1 i2 i3 ↔ (BitVec.ofNat 17 (weightedSum i1 i2 i3)).getLsbD 16 = true)

/-- R124: the decoder's five laws. -/
def Obligations.DecoderLaws : Prop :=
  ((Finset.univ : Finset (Digit × Digit × Digit)).filter
      (fun t => weightedSum t.1 t.2.1 t.2.2 ≤ 65535)).card = 65536 ∧
  (∀ w : Word, dec3 (some (enc16 w).c) (some (enc16 w).d) (some (enc16 w).e) = .ok w ∧
    blockFunction alphabet (encode (.dect (rspHi (blockFunction alphabet (encode (.encw w))))
        (rspMid (blockFunction alphabet (encode (.encw w)))) (rspLo (blockFunction alphabet (encode (.encw w)))))) =
      0x0#4 ++ 0x3#4 ++ 0x00#8 ++ w ∧
    blockFunction alphabet (encode (.dectd (rspHi (blockFunction alphabet (encode (.encwd w))))
        (rspMid (blockFunction alphabet (encode (.encwd w)))) (rspLo (blockFunction alphabet (encode (.encwd w)))))) =
      0x0#4 ++ 0xB#4 ++ 0x00#8 ++ w) ∧
  (∀ c d e : Digit, (∃ w, dec3 (some c) (some d) (some e) = .ok w) ↔ ∃ w, enc16 w = { c := c, d := d, e := e }) ∧
  (∀ (c d e c' d' e' : Digit) (w : Word), dec3 (some c) (some d) (some e) = .ok w →
    dec3 (some c') (some d') (some e') = .ok w → c = c' ∧ d = d' ∧ e = e') ∧
  (weightedSum 15 16 32 = 65535 ∧ weightedSum 16 16 32 = 65536 ∧
    dec3 (some 15) (some 16) (some 32) = .ok 0xFFFF#16 ∧ dec3 (some 16) (some 16) (some 32) = .error .invalidCode ∧
    ∀ c d e : Digit, dec3 (some c) (some d) (some e) = .error .invalidCode → 65536 ≤ weightedSum c d e) ∧
  (∀ c d e : Digit,
    (e.val ≤ 31 → weightedSum c d e ≤ 64799 ∧ ∃ w, dec3 (some c) (some d) (some e) = .ok w) ∧
    (e.val = 32 → ((∃ w, dec3 (some c) (some d) (some e) = .ok w) ↔ c.val + 45 * d.val ≤ 735)) ∧
    (33 ≤ e.val → dec3 (some c) (some d) (some e) = .error .invalidCode))

/-- R143: the pair encoder's digits, and what it outputs. -/
def Obligations.PairEncoderDigits : Prop :=
  ∀ b : Byte,
    (enc16 (b.setWidth 16)).c.val = b.toNat % 45 ∧ (enc16 (b.setWidth 16)).c.val ≤ 44 ∧ b.toNat / 45 ≤ 5 ∧
    (enc16 (b.setWidth 16)).d.val = b.toNat / 45 ∧ (enc16 (b.setWidth 16)).e.val = 0 ∧
    (∀ s : State, s.Ready → s.rom = alphabet →
      ∃ s' rsp, exec (.encb b) s = .next s' ∧ Answered s (encode (.encb b)) rsp s' ∧ rspHi rsp = 0x00#8 ∧
        rspMid rsp = alphabet[(enc16 (b.setWidth 16)).c] ∧ rspLo rsp = alphabet[(enc16 (b.setWidth 16)).d] ∧
        0x30 ≤ (rspLo rsp).toNat ∧ (rspLo rsp).toNat ≤ 0x35) ∧
    (∀ s : State, s.Ready →
      ∃ s' rsp, exec (.encbd b) s = .next s' ∧ Answered s (encode (.encbd b)) rsp s' ∧ rspHi rsp = 0x00#8 ∧
        (rspMid rsp).toNat = b.toNat % 45 ∧ (rspLo rsp).toNat = b.toNat / 45)

/-- R145: a pair's value is at most 2024, so the pair decoder never answers InvalidCode; a pair above 255 is accepted and
its high bits are lost; the encoder produces none. -/
def Obligations.PairDecoderNarrowsAndNeverFailsTheRange : Prop :=
  (∀ i1 i2 : Digit, i1.val + 45 * i2.val ≤ 2024) ∧
  (∀ (l1 l2 : Lane) (s : State), s.Ready →
    (∃ s' rsp, exec (.decp l1 l2) s = .next s' ∧ Answered s (encode (.decp l1 l2)) rsp s' ∧
      rsp.extractLsb' 28 4 ≠ 0x3#4) ∧
    (∃ s' rsp, exec (.decpd l1 l2) s = .next s' ∧ Answered s (encode (.decpd l1 l2)) rsp s' ∧
      rsp.extractLsb' 28 4 ≠ 0x3#4)) ∧
  (∀ (i1 i2 : Digit) (s : State), s.Ready → s.rom = alphabet → 255 < i1.val + 45 * i2.val →
    (∃ s', exec (.decp alphabet[i1] alphabet[i2]) s = .next s' ∧
      Answered s (encode (.decp alphabet[i1] alphabet[i2]))
        (0x0#4 ++ 0x4#4 ++ 0x0000#16 ++ BitVec.ofNat 8 ((i1.val + 45 * i2.val) % 256)) s') ∧
    ∀ b : Byte, ¬ ((enc16 (b.setWidth 16)).c = i1 ∧ (enc16 (b.setWidth 16)).d = i2)) ∧
  blockFunction alphabet 0x40003A3A#32 = 0x040000E8#32 ∧ blockFunction alphabet 0x40003735#32 = 0x040000E8#32 ∧
  blockFunction alphabet 0x40005635#32 = 0x04000000#32

/-- R146: decoding what the encoder answers gives back its input, for bytes and Words in both modes; encoding the byte
of a non-canonical pair gives another pair. -/
def Obligations.GroupsMakeTheRoundTrip : Prop :=
  (∀ (b : Byte) (s : State), s.Ready → s.rom = alphabet →
    ∃ s' r, exec (.encb b) s = .next s' ∧ Answered s (encode (.encb b)) r s' ∧
      ∃ t, exec (.decp (rspMid r) (rspLo r)) s = .next t ∧
        Answered s (encode (.decp (rspMid r) (rspLo r))) (0x0#4 ++ 0x4#4 ++ 0x0000#16 ++ b) t) ∧
  (∀ (b : Byte) (s : State), s.Ready →
    ∃ s' r, exec (.encbd b) s = .next s' ∧ Answered s (encode (.encbd b)) r s' ∧
      ∃ t, exec (.decpd (rspMid r) (rspLo r)) s = .next t ∧
        Answered s (encode (.decpd (rspMid r) (rspLo r))) (0x0#4 ++ 0xC#4 ++ 0x0000#16 ++ b) t) ∧
  (∀ (w : Word) (s : State), s.Ready → s.rom = alphabet →
    ∃ s' r, exec (.encw w) s = .next s' ∧ Answered s (encode (.encw w)) r s' ∧
      ∃ t, exec (.dect (rspHi r) (rspMid r) (rspLo r)) s = .next t ∧
        Answered s (encode (.dect (rspHi r) (rspMid r) (rspLo r))) (0x0#4 ++ 0x3#4 ++ 0x00#8 ++ w) t) ∧
  (∀ (w : Word) (s : State), s.Ready →
    ∃ s' r, exec (.encwd w) s = .next s' ∧ Answered s (encode (.encwd w)) r s' ∧
      ∃ t, exec (.dectd (rspHi r) (rspMid r) (rspLo r)) s = .next t ∧
        Answered s (encode (.dectd (rspHi r) (rspMid r) (rspLo r))) (0x0#4 ++ 0xB#4 ++ 0x00#8 ++ w) t) ∧
  (∀ (i1 i2 : Digit) (b : Byte), 255 < i1.val + 45 * i2.val → b = BitVec.ofNat 8 (i1.val + 45 * i2.val) →
    (enc16 (b.setWidth 16)).c.val + 45 * (enc16 (b.setWidth 16)).d.val = b.toNat ∧
    ¬ ((enc16 (b.setWidth 16)).c = i1 ∧ (enc16 (b.setWidth 16)).d = i2))

/-- R122: a digit lane above 44 has no index; at most 44 it is the digit. -/
def Obligations.DigitLanesAreTheirDigits : Prop :=
  ∀ l : Lane, (∀ i : Digit, digitOfLane l = some i ↔ l.toNat = i.val) ∧ (digitOfLane l = none ↔ 44 < l.toNat)

/-! ### The alphabet and the byte order -/

/-- R40: the closed form of the ROM's contents, in the ROM after reset. -/
def Obligations.RomHoldsTheAlphabet : Prop :=
  (∀ i : Digit, i.val ≤ 9 → (State.reset.rom[i]).toNat = 0x30 + i.val) ∧
  (∀ i : Digit, 10 ≤ i.val → i.val ≤ 35 → (State.reset.rom[i]).toNat = 0x37 + i.val) ∧
  [State.reset.rom[36], State.reset.rom[37], State.reset.rom[38], State.reset.rom[39], State.reset.rom[40],
    State.reset.rom[41], State.reset.rom[42], State.reset.rom[43], State.reset.rom[44]] =
    [0x20#8, 0x24#8, 0x25#8, 0x2A#8, 0x2B#8, 0x2D#8, 0x2E#8, 0x2F#8, 0x3A#8]

/-- R41: the index of a character is the one whose ROM entry it is; 45 of the 256 codes have one; the pseudocode of
`ALPHA_INV`. -/
def Obligations.AlphabetInverseIsTheClosedForm : Prop :=
  ((List.range 256).filter (fun n => (alphaInv alphabet (BitVec.ofNat 8 n)).isSome)).length = 45 ∧
  ∀ ch : Lane,
    (∀ i : Digit, alphaInv alphabet ch = some i ↔ alphabet[i] = ch) ∧
    (0x30 ≤ ch.toNat ∧ ch.toNat ≤ 0x39 → (alphaInv alphabet ch).map Fin.val = some (ch.toNat - 0x30)) ∧
    (0x41 ≤ ch.toNat ∧ ch.toNat ≤ 0x5A → (alphaInv alphabet ch).map Fin.val = some (ch.toNat - 0x37)) ∧
    (∀ p ∈ [(0x20#8, 36), (0x24#8, 37), (0x25#8, 38), (0x2A#8, 39), (0x2B#8, 40), (0x2D#8, 41), (0x2E#8, 42),
        (0x2F#8, 43), (0x3A#8, 44)], ch = p.1 → (alphaInv alphabet ch).map Fin.val = some p.2) ∧
    (¬ (0x30 ≤ ch.toNat ∧ ch.toNat ≤ 0x39) → ¬ (0x41 ≤ ch.toNat ∧ ch.toNat ≤ 0x5A) →
      ch ∉ [0x20#8, 0x24#8, 0x25#8, 0x2A#8, 0x2B#8, 0x2D#8, 0x2E#8, 0x2F#8, 0x3A#8] → alphaInv alphabet ch = none)

/-- R42: 45 distinct characters; each law of the two directions. -/
def Obligations.AlphabetLaws : Prop :=
  (∀ i j : Digit, alphabet[i] = alphabet[j] → i = j) ∧
  (∀ i : Digit, alphaInv alphabet alphabet[i] = some i) ∧
  (∀ (ch : Lane) (i : Digit), alphaInv alphabet ch = some i → alphabet[i] = ch)

/-- R43: nothing writes the ROM, and ENCW of a Word below 45 reads its entry out. -/
def Obligations.NothingWritesTheRomAndEncwReadsIt : Prop :=
  (∀ s s' : State, step s = .next s' → s'.rom = s.rom) ∧
  (∀ (s : State) (i : Digit), s.Ready →
    ∃ s', exec (.encw (BitVec.ofNat 16 i.val)) s = .next s' ∧
      Answered s (encode (.encw (BitVec.ofNat 16 i.val))) (0x0#4 ++ 0x1#4 ++ s.rom[i] ++ s.rom[0] ++ s.rom[0]) s')

/-- R45: a 2-byte group is big-endian. -/
def Obligations.GroupsAreBigEndian : Prop :=
  ∀ byte0 byte1 : Byte,
    (wordOfBytes byte0 byte1).toNat = byte0.toNat * 256 + byte1.toNat ∧
    (wordOfBytes byte0 byte1 >>> 8).toNat = byte0.toNat ∧
    (wordOfBytes byte0 byte1 &&& 0xFF#16).toNat = byte1.toNat

/-! ### The channels -/

/-- R24, R29: an edge at which the host, keeping its duties, offers a word that decodes runs that command on the state
out of reset, then the response channel and the countdowns (`finishEdge`). The order of the channels and the
countdowns is the model's choice (log entry 3), and that a command offered at the release edge is run on the released
state is the model's reading (log entry 4). -/
def Obligations.StepRunsTheDecodedCommand : Prop :=
  ∀ (s : State) (cmd : Cmd) (i : Instr) (rdy : Bool),
    s.host.nextEvent = .edge { rst := false, cmdValid := true, cmdData := some cmd, rspReady := rdy } →
    (s.host.held = none ∨ s.host.held = some cmd) → decode cmd = .ok i →
    ∃ t, exec i s.advance.resetRelease = .next t ∧ step s = finishEdge rdy t ∧
      ∀ u, deliver rdy t = .next u → step s = .next u.tick

/-- R29, R32, R232: the state right after reset. The wait before `cmd_ready` beyond READY_AFTER_RESET is the model's
free value (log entry 2), and may be 0 where READY_AFTER_RESET is; from which cycle it is counted is the model's
choice (log entry 22). -/
def Obligations.ResetStateIsEmptyWithItsWait : Prop :=
  State.reset.q = [] ∧ State.reset.inReset = false ∧ State.reset.rom = alphabet ∧
  State.reset.rspValid false = false ∧ Config.readyAfterReset ≤ State.reset.readyWait ∧
  (∀ s : State, 0 < s.readyWait → s.cmdReady false = false)

/-- R231: what an edge with `rst = 1` does, whatever the state and whatever the host offers. That the step goes on for
a host that drops or changes a held command at such an edge is the model's reading of R231 (log entry 5). -/
def Obligations.ResetEdgeEmptiesTheBlock : Prop :=
  ∀ (s : State) (e : Edge), s.host.nextEvent = .edge e → e.rst = true → (e.cmdValid = true → e.cmdData ≠ none) →
    s.cmdReady e.rst = false ∧ s.rspValid e.rst = false ∧
    ∃ s', step s = .next s' ∧ s'.q = [] ∧ s'.inReset = true ∧ s'.rom = s.rom ∧
      s'.host.issued.length ≤ s.host.issued.length ∧ s'.host.received.length ≤ s.host.received.length ∧
      s'.rspValid false = false

/-- R32, R232: after an edge with `rst = 1`, `cmd_ready` stays low for the next READY_AFTER_RESET cycles and nothing
is accepted in them. The cycle that ends at the first edge with `rst = 0` is the first of them: that is the model's
choice (log entry 22), with what it reads of that cycle (log entry 4). That the host's record starts anew at a reset
is the model's choice (log entry 8). -/
def Obligations.NotReadyForReadyAfterResetCycles : Prop :=
  ∀ (s s1 : State) (e : Edge), s.host.nextEvent = .edge e → e.rst = true → step s = .next s1 →
    ∀ (k : Nat) (s2 : State), runEdges k s1 = .next s2 →
      Config.readyAfterReset ≤ k ∨ (s2.cmdReady false = false ∧ s2.host.issued = [])

/-- R30: `cmd_ready` is low when `Q` is full and when `rst` is high; otherwise either value is a state of the model. -/
def Obligations.CmdReadyIsLowWhenFullOrInReset : Prop :=
  ∀ s : State,
    (s.q.length = Config.depth → ∀ rst, s.cmdReady rst = false) ∧ s.cmdReady true = false ∧
    (s.q.length < Config.depth → ∀ b : Bool, ∃ n, ({ s with readyWait := n } : State).cmdReady false = b)

/-- R21: when a command is accepted, which one, and that a host that breaks its duties is refused. The record of the
command that waits is the model's (log entry 15), and so is the order in which broken duties are reported, undriven
data first (log entry 11). -/
def Obligations.CommandsAreAcceptedAtTheHandshake : Prop :=
  ∀ (s : State) (e : Edge), s.host.nextEvent = .edge e →
    (e.cmdValid = true → e.cmdData = none → step s = .refused .commandUndriven) ∧
    (∀ cmd, s.host.held = some cmd → e.rst = false → e.cmdValid = false → step s = .refused .commandWithdrawn) ∧
    (∀ cmd cmd', s.host.held = some cmd → e.rst = false → e.cmdValid = true → e.cmdData = some cmd' → cmd' ≠ cmd →
      step s = .refused .commandChanged) ∧
    (∀ s', step s = .next s' → e.rst = false →
      (e.cmdValid = false → s'.host.issued = s.host.issued) ∧
      (∀ cmd, e.cmdValid = true → e.cmdData = some cmd →
        (s.cmdReady e.rst = true → s'.host.issued = s.host.issued ++ [cmd] ∧ s'.host.held = none) ∧
        (s.cmdReady e.rst = false → s'.host.issued = s.host.issued ∧ s'.host.held = some cmd)))

/-- R22: a response is offered only from the head of a non-empty `Q`; it is delivered when the host is ready, and it
stays on offer, unchanged, until then. -/
def Obligations.ResponsesStayOnOfferUntilDelivered : Prop :=
  (∀ s : State, s.rspValid false = true → ∃ x rest, s.q = x :: rest ∧ s.rspData false = x.rsp) ∧
  (∀ (s s' : State) (e : Edge), s.host.nextEvent = .edge e → e.rst = false → step s = .next s' →
    (s.rspValid e.rst = true → e.rspReady = true →
      s'.host.received = s.host.received ++ [s.rspData e.rst]) ∧
    (s.rspValid e.rst = true → e.rspReady = false →
      s'.host.received = s.host.received ∧ s'.rspValid false = true ∧ s'.rspData false = s.rspData e.rst) ∧
    (s.rspValid e.rst = false → s'.host.received = s.host.received))

/-- R31: a response is not delivered at the edge that accepted its command (no edge after it, `k = 0`), nor earlier than
LATENCY cycles after it. Its command is the one at place `s.host.issued.length` of the host's record. -/
def Obligations.NoResponseBeforeLatency : Prop :=
  ∀ (s s1 : State) (cmd : Cmd), s.Inv → step s = .next s1 → s1.host.issued = s.host.issued ++ [cmd] →
    ∀ (k : Nat) (s2 : State), k < Config.latency → runEdges k s1 = .next s2 →
      s2.host.received.length ≤ s.host.issued.length

/-- R27, R32, R47: the invariant of the channels holds after reset. -/
def Obligations.InvariantHoldsAtReset : Prop := State.reset.Inv

/-- R27, R43, R47, R22, R231: every step keeps the invariant of the channels. -/
def Obligations.EveryStepKeepsTheInvariant : Prop :=
  ∀ s s' : State, s.Inv → step s = .next s' → s'.Inv

/-- R208: the model has no step that shows the host a faulty block. -/
def Obligations.NoStepShowsAFaultyBlock : Prop :=
  ∀ (s : State) (f : Fault), s.Inv → step s ≠ .fault f

/-- R208: each observation the rule lists, were it in a state, is a named fault of the block and no value. Where the
model looks for each is log entry 10. -/
def Obligations.FaultyBlocksAreNamed : Prop :=
  ∀ (s : State) (rsp : Rsp) (rest : List InFlight), s.q = { rsp := rsp, wait := 0 } :: rest →
    (∀ (r : Rsp) (rdy : Bool), s.host.seen = some r → r ≠ rsp → deliver rdy s = .fault .responseChanged) ∧
    (s.host.seen = none →
      (s.host.issued.length ≤ s.host.received.length → deliver true s = .fault .responseUnrequested) ∧
      (∀ cmd, s.host.issued[s.host.received.length]? = some cmd →
        (rsp.extractLsb' 28 4 ∉ [0x0#4, 0x2#4, 0x3#4, 0x4#4] → deliver true s = .fault .responseStatus) ∧
        (rsp.extractLsb' 28 4 ∈ [0x0#4, 0x2#4, 0x3#4, 0x4#4] → rsp.extractLsb' 24 4 ≠ cmd.extractLsb' 28 4 →
          deliver true s = .fault .responseEcho)))

/-- R29: every edge is a list of the actions of the rule, each under the requirements the rule gives, on `(Q,
in_reset)` and on the pins. R29 leaves the order of the actions at one edge open; release, acceptance, delivery is the
model's choice (log entry 3), with the release edge as log entry 4 reads it. -/
def Obligations.EveryEdgeRefinesTheActionsOfTheSpec : Prop :=
  ∀ s s' : State, step s = .next s' →
    ∃ e as, s.host.nextEvent = .edge e ∧ edgeActions s.view as ∧ (∀ a ∈ as, s.pinsAllow e a) ∧
      s.view.acts s.rom as = some s'.view

/-- R47: after any run, the responses received are those of the commands accepted, in acceptance order, one for each and
none for any other: the received ones are the first, and when nothing is in flight they are all. -/
def Obligations.ResponsesComeInAcceptanceOrder : Prop :=
  ∀ (n : Nat) (s s' : State), s.Inv → runEdges n s = .next s' →
    s'.host.received <+: s'.host.issued.map (blockFunction alphabet) ∧
    (s'.q = [] → s'.host.received = s'.host.issued.map (blockFunction alphabet))

/-- R29: the bounds behind the fairness, which the model makes of its free waits (log entries 2 and 23). With no
reset, the block is ready once the free wait is over and there is room; the head of `Q` is delivered once its free
wait is over, to a host that stays ready. Where the script is shorter than the wait, both clauses rest on the model's
own host, which then never resets and takes what is offered (log entry 6). -/
def Obligations.WaitsEndWithNoReset : Prop :=
  (∀ (s s' : State), (∀ ev ∈ s.host.script.take s.readyWait, ev.noReset = true) →
    runEdges s.readyWait s = .next s' → s'.readyWait = 0 ∧ (s'.q.length < Config.depth → s'.cmdReady false = true)) ∧
  (∀ (s s' : State) (x : InFlight) (rest : List InFlight), s.q = x :: rest →
    (∀ ev ∈ s.host.script.take (x.wait + 1), ev.takes = true) → runEdges (x.wait + 1) s = .next s' →
    ∃ more, s'.host.received = s.host.received ++ x.rsp :: more)

/-- R29, R52, R170: the model's host loop (log entry 6) comes to its end: every command it holds or still has to issue
is accepted, in order, the block drains (`State.drained`: log entry 24), and the responses are those of the commands.
The waits are finite by log entry 2. -/
def Obligations.TheHostLoopDrains : Prop :=
  ∀ s : State, s.Inv → s.host.script = [] →
    ∃ n s', runEdges n s = .next s' ∧ s'.drained = true ∧ s'.host.program = [] ∧
      s'.host.issued = s.host.issued ++ s.host.held.toList ++ s.host.program ∧
      s'.host.received = s'.host.issued.map (blockFunction alphabet)

/-- R213: the model takes no step past a stopped clock (log entry 12). -/
def Obligations.StoppedClockIsRefused : Prop :=
  ∀ s : State, s.host.nextEvent = .clockStop → step s = .refused .clockStopped

/-! ### The host's streams -/

/-- R171: the command words of ENCS, by their places. -/
def Obligations.EncsIssuesItsGroupsInOrder : Prop :=
  ∀ b : List Byte,
    (programOf (encsCommands b)).length = b.length / 2 + b.length % 2 ∧
    (∀ (k : Nat) (b0 b1 : Byte), b[2 * k]? = some b0 → b[2 * k + 1]? = some b1 →
      (programOf (encsCommands b))[k]? = some (0x10000000#32 ||| b0.setWidth 32 <<< 8 ||| b1.setWidth 32)) ∧
    (∀ b0 : Byte, b.length % 2 = 1 → b.getLast? = some b0 →
      (programOf (encsCommands b))[b.length / 2]? = some (0x20000000#32 ||| b0.setWidth 32))

/-- R172, R173: every command of ENCS is legal and answered OK; the text; the length law; alphabet closure. -/
def Obligations.EncsNeverFailsAndKeepsItsLaws : Prop :=
  ∀ bytes : List Byte,
    (∀ i ∈ encsCommands bytes, legal (encode i) = true ∧
      (blockFunction alphabet (encode i)).extractLsb' 28 4 = 0x0#4) ∧
    encs alphabet bytes = ((encsCommands bytes).map (fun i => blockFunction alphabet (encode i))).flatMap
      (fun r => if r.extractLsb' 24 4 = 0x1#4 then [r.extractLsb' 16 8, r.extractLsb' 8 8, r.extractLsb' 0 8]
        else [r.extractLsb' 8 8, r.extractLsb' 0 8]) ∧
    (encs alphabet bytes).length = 3 * (bytes.length / 2) + (if bytes.length % 2 = 1 then 2 else 0) ∧
    (encs alphabet bytes).length = (3 * bytes.length + 1) / 2 ∧
    (∀ l ∈ encs alphabet bytes, ∃ i : Digit, alphabet[i] = l)

/-- R174: a character of one of the 256 codes is passed unchanged; any other becomes a code outside the alphabet. -/
def Obligations.WideCharactersAreNeverCut : Prop :=
  ∀ ch : Nat,
    (ch < 256 → (laneOfChar ch).toNat = ch) ∧
    (256 ≤ ch → laneOfChar ch = 0x00#8 ∧ ∀ i : Digit, alphabet[i] ≠ laneOfChar ch)

/-- R175: the command words of DECS, by their places; none for a last character that stands alone. -/
def Obligations.DecsIssuesItsGroupsInOrder : Prop :=
  ∀ s : List Lane,
    (programOf (decsCommands s)).length = s.length / 3 + (if s.length % 3 = 2 then 1 else 0) ∧
    (∀ (k : Nat) (l1 l2 l3 : Lane), s[3 * k]? = some l1 → s[3 * k + 1]? = some l2 → s[3 * k + 2]? = some l3 →
      (programOf (decsCommands s))[k]? =
        some (0x30000000#32 ||| l1.setWidth 32 <<< 16 ||| l2.setWidth 32 <<< 8 ||| l3.setWidth 32)) ∧
    (∀ l1 l2 : Lane, s.length % 3 = 2 → s[s.length - 2]? = some l1 → s[s.length - 1]? = some l2 →
      (programOf (decsCommands s))[s.length / 3]? = some (0x40000000#32 ||| l1.setWidth 32 <<< 8 ||| l2.setWidth 32))

/-- R176: the output of a DECS whose responses are all OK, and its length. -/
def Obligations.DecsOutputsTheBytesOfItsGroups : Prop :=
  (∀ lanes : List Lane,
    (∀ i ∈ decsCommands lanes, (blockFunction alphabet (encode i)).extractLsb' 28 4 = 0x0#4) →
    lanes.length % 3 ≠ 1 →
    ∃ out, decs alphabet lanes = .bytes out ∧
      out = ((decsCommands lanes).map (fun i => blockFunction alphabet (encode i))).flatMap
        (fun r => if r.extractLsb' 24 4 = 0x3#4 then [r.extractLsb' 8 8, r.extractLsb' 0 8] else [r.extractLsb' 0 8]) ∧
      out.length = 2 * (lanes.length / 3) + (if lanes.length % 3 = 2 then 1 else 0)) ∧
  decs alphabet [] = .bytes []

/-- R177: which error a DECS reports: the first response that is not OK, else InvalidLength; no others; and the rule's
three examples. -/
def Obligations.DecsReportsTheFirstError : Prop :=
  (∀ (lanes : List Lane) (pre post : List Instr) (i : Instr), decsCommands lanes = pre ++ i :: post →
    (∀ j ∈ pre, (blockFunction alphabet (encode j)).extractLsb' 28 4 = 0x0#4) →
    ((blockFunction alphabet (encode i)).extractLsb' 28 4 = 0x2#4 →
      decs alphabet lanes = .error .invalidCharacter) ∧
    ((blockFunction alphabet (encode i)).extractLsb' 28 4 = 0x3#4 → decs alphabet lanes = .error .invalidCode)) ∧
  (∀ lanes : List Lane,
    (∀ i ∈ decsCommands lanes, (blockFunction alphabet (encode i)).extractLsb' 28 4 = 0x0#4) →
    lanes.length % 3 = 1 → decs alphabet lanes = .error .invalidLength) ∧
  (∀ lanes : List Lane,
    (∃ out, decs alphabet lanes = .bytes out ∧ lanes.length % 3 ≠ 1 ∧
      ∀ i ∈ decsCommands lanes, (blockFunction alphabet (encode i)).extractLsb' 28 4 = 0x0#4) ∨
    decs alphabet lanes = .error .invalidLength ∨ decs alphabet lanes = .error .invalidCharacter ∨
    decs alphabet lanes = .error .invalidCode) ∧
  decs alphabet [0x5F#8, 0x61#8, 0x62#8, 0x31#8] = .error .invalidCharacter ∧
  decs alphabet [0x3A#8, 0x3A#8, 0x3A#8, 0x31#8] = .error .invalidCode ∧
  decs alphabet [0x31#8, 0x32#8, 0x33#8, 0x34#8] = .error .invalidLength

/-- R178: a host that stops issuing once a response is not OK reports the same as one that issues all. -/
def Obligations.StoppingEarlyGivesTheSameResult : Prop :=
  ∀ (m : Nat) (rsps : List Rsp) (k : Nat), (∃ r ∈ rsps.take k, r.extractLsb' 28 4 ≠ 0x0#4) →
    decsResult m (rsps.take k) = decsResult m rsps

/-- R179: decoding what ENCS gives returns the bytes; the other way round exactly for texts whose trailing pair, if they
have one, is canonical. -/
def Obligations.StreamsMakeTheRoundTrip : Prop :=
  (∀ bytes : List Byte, decs alphabet (encs alphabet bytes) = .bytes bytes) ∧
  (∀ (lanes : List Lane) (out : List Byte), decs alphabet lanes = .bytes out →
    (encs alphabet out = lanes ↔
      ∀ (pre : List Lane) (i1 i2 : Digit), lanes = pre ++ [alphabet[i1], alphabet[i2]] → pre.length % 3 = 0 →
        i1.val + 45 * i2.val ≤ 255))

/-- R170 to R179: a host, in the model's form (log entry 6), that runs the commands of ENCS, or of DECS, through the
block from a drained state has all of them accepted, and the block drains (log entry 24), and gets the text, or the
result, that the stream functions define. -/
def Obligations.StreamsRunOnTheBlock : Prop :=
  ∀ s : State, s.Inv → s.host.script = [] → s.host.held = none → s.host.issued = [] → s.host.received = [] → s.q = [] →
    (∀ bytes : List Byte, s.host.program = programOf (encsCommands bytes) →
      ∃ n s', runEdges n s = .next s' ∧ s'.drained = true ∧ s'.host.program = [] ∧
        s'.host.issued = programOf (encsCommands bytes) ∧ encsText s'.host.received = encs alphabet bytes) ∧
    (∀ lanes : List Lane, s.host.program = programOf (decsCommands lanes) →
      ∃ n s', runEdges n s = .next s' ∧ s'.drained = true ∧ s'.host.program = [] ∧
        s'.host.issued = programOf (decsCommands lanes) ∧
        decsResult lanes.length s'.host.received = decs alphabet lanes)

/-- R75, R76: the lines the assembler refuses are exactly those with an operand that does not fit; the words every other
line stands for; only `.word` can express an illegal command, and it can express any. The length of a quoted text, the
bound of `.word`, and that a line is taken parsed are the model's choice (log entry 19); the lane code of a wide
character of DECS is that of R174 (log entry 20). -/
def Obligations.TheAssemblerRefusesWhatDoesNotFit : Prop :=
  (∀ w : Nat, (assemble (.encw w) = none ↔ 65535 < w) ∧ (assemble (.encwd w) = none ↔ 65535 < w) ∧
    (w ≤ 65535 →
      (∃ cmd, assemble (.encw w) = some [cmd] ∧ cmd.toNat = 0x10000000 + w) ∧
      (∃ cmd, assemble (.encwd w) = some [cmd] ∧ cmd.toNat = 0x90000000 + w))) ∧
  (∀ b : Nat, (assemble (.encb b) = none ↔ 255 < b) ∧ (assemble (.encbd b) = none ↔ 255 < b) ∧
    (b ≤ 255 →
      (∃ cmd, assemble (.encb b) = some [cmd] ∧ cmd.toNat = 0x20000000 + b) ∧
      (∃ cmd, assemble (.encbd b) = some [cmd] ∧ cmd.toNat = 0xA0000000 + b))) ∧
  (∀ l1 l2 l3 : Nat, (assemble (.dect l1 l2 l3) = none ↔ ∃ l ∈ [l1, l2, l3], 255 < l) ∧
    (assemble (.dectd l1 l2 l3) = none ↔ ∃ l ∈ [l1, l2, l3], 255 < l) ∧
    assemble (.dectText [l1, l2, l3]) = assemble (.dect l1 l2 l3) ∧
    (l1 ≤ 255 → l2 ≤ 255 → l3 ≤ 255 →
      (∃ cmd, assemble (.dect l1 l2 l3) = some [cmd] ∧ cmd.toNat = 0x30000000 + 65536 * l1 + 256 * l2 + l3) ∧
      (∃ cmd, assemble (.dectd l1 l2 l3) = some [cmd] ∧ cmd.toNat = 0xB0000000 + 65536 * l1 + 256 * l2 + l3))) ∧
  (∀ l1 l2 : Nat, (assemble (.decp l1 l2) = none ↔ ∃ l ∈ [l1, l2], 255 < l) ∧
    (assemble (.decpd l1 l2) = none ↔ ∃ l ∈ [l1, l2], 255 < l) ∧
    assemble (.decpText [l1, l2]) = assemble (.decp l1 l2) ∧
    (l1 ≤ 255 → l2 ≤ 255 →
      (∃ cmd, assemble (.decp l1 l2) = some [cmd] ∧ cmd.toNat = 0x40000000 + 256 * l1 + l2) ∧
      (∃ cmd, assemble (.decpd l1 l2) = some [cmd] ∧ cmd.toNat = 0xC0000000 + 256 * l1 + l2))) ∧
  (∀ text : List Nat, (assemble (.dectText text) = none ↔ text.length ≠ 3 ∨ ∃ ch ∈ text, 255 < ch) ∧
    (assemble (.decpText text) = none ↔ text.length ≠ 2 ∨ ∃ ch ∈ text, 255 < ch)) ∧
  (∀ v : Nat, (assemble (.word v) = none ↔ 2 ^ 32 ≤ v) ∧
    (v < 2 ^ 32 → ∃ cmd, assemble (.word v) = some [cmd] ∧ cmd.toNat = v)) ∧
  (∀ bytes : List Nat, assemble (.encs bytes) = none ↔ ∃ b ∈ bytes, 255 < b) ∧
  (∀ bytes : List Byte, assemble (.encs (bytes.map BitVec.toNat)) = some (programOf (encsCommands bytes))) ∧
  (∀ text : List Nat, assemble (.decs text) = some (programOf (decsCommands (text.map laneOfChar)))) ∧
  (∀ (line : AsmLine) (cmds : List Cmd), assemble line = some cmds → (∀ v, line ≠ .word v) →
    ∀ cmd ∈ cmds, legal cmd = true) ∧
  (∀ cmd : Cmd, assemble (.word cmd.toNat) = some [cmd])
end

