-- ==== Sys2Proof/Laws/State.lean ====
section
/-! SUPPORT. One lemma for each field and each update of the state, true by rfl, so that no later proof unfolds a record
update. -/

namespace Sys2Proof.Machine

@[simp] theorem State.accept_q (s : State) (cmd : Cmd) (rsp : Rsp) :
    (s.accept cmd rsp).q = s.q ++ [{ rsp := rsp, wait := Config.rspGap s.draw + Config.latency }] := rfl
@[simp] theorem State.accept_inReset (s : State) (cmd : Cmd) (rsp : Rsp) : (s.accept cmd rsp).inReset = s.inReset := rfl
@[simp] theorem State.accept_rom (s : State) (cmd : Cmd) (rsp : Rsp) : (s.accept cmd rsp).rom = s.rom := rfl
@[simp] theorem State.accept_readyWait (s : State) (cmd : Cmd) (rsp : Rsp) :
    (s.accept cmd rsp).readyWait = s.readyWait := rfl
@[simp] theorem State.accept_draw (s : State) (cmd : Cmd) (rsp : Rsp) : (s.accept cmd rsp).draw = s.draw := rfl
@[simp] theorem State.accept_script (s : State) (cmd : Cmd) (rsp : Rsp) :
    (s.accept cmd rsp).host.script = s.host.script := rfl
@[simp] theorem State.accept_program (s : State) (cmd : Cmd) (rsp : Rsp) :
    (s.accept cmd rsp).host.program = s.host.program := rfl
@[simp] theorem State.accept_held (s : State) (cmd : Cmd) (rsp : Rsp) : (s.accept cmd rsp).host.held = none := rfl
@[simp] theorem State.accept_seen (s : State) (cmd : Cmd) (rsp : Rsp) :
    (s.accept cmd rsp).host.seen = s.host.seen := rfl
@[simp] theorem State.accept_issued (s : State) (cmd : Cmd) (rsp : Rsp) :
    (s.accept cmd rsp).host.issued = s.host.issued ++ [cmd] := rfl
@[simp] theorem State.accept_received (s : State) (cmd : Cmd) (rsp : Rsp) :
    (s.accept cmd rsp).host.received = s.host.received := rfl

@[simp] theorem State.hold_q (s : State) (cmd : Cmd) : (s.hold cmd).q = s.q := rfl
@[simp] theorem State.hold_inReset (s : State) (cmd : Cmd) : (s.hold cmd).inReset = s.inReset := rfl
@[simp] theorem State.hold_rom (s : State) (cmd : Cmd) : (s.hold cmd).rom = s.rom := rfl
@[simp] theorem State.hold_readyWait (s : State) (cmd : Cmd) : (s.hold cmd).readyWait = s.readyWait := rfl
@[simp] theorem State.hold_draw (s : State) (cmd : Cmd) : (s.hold cmd).draw = s.draw := rfl
@[simp] theorem State.hold_script (s : State) (cmd : Cmd) : (s.hold cmd).host.script = s.host.script := rfl
@[simp] theorem State.hold_program (s : State) (cmd : Cmd) : (s.hold cmd).host.program = s.host.program := rfl
@[simp] theorem State.hold_held (s : State) (cmd : Cmd) : (s.hold cmd).host.held = some cmd := rfl
@[simp] theorem State.hold_seen (s : State) (cmd : Cmd) : (s.hold cmd).host.seen = s.host.seen := rfl
@[simp] theorem State.hold_issued (s : State) (cmd : Cmd) : (s.hold cmd).host.issued = s.host.issued := rfl
@[simp] theorem State.hold_received (s : State) (cmd : Cmd) : (s.hold cmd).host.received = s.host.received := rfl

@[simp] theorem State.take_q (s : State) (rsp : Rsp) : (s.take rsp).q = s.q.tail := rfl
@[simp] theorem State.take_inReset (s : State) (rsp : Rsp) : (s.take rsp).inReset = s.inReset := rfl
@[simp] theorem State.take_rom (s : State) (rsp : Rsp) : (s.take rsp).rom = s.rom := rfl
@[simp] theorem State.take_readyWait (s : State) (rsp : Rsp) : (s.take rsp).readyWait = s.readyWait := rfl
@[simp] theorem State.take_draw (s : State) (rsp : Rsp) : (s.take rsp).draw = s.draw := rfl
@[simp] theorem State.take_script (s : State) (rsp : Rsp) : (s.take rsp).host.script = s.host.script := rfl
@[simp] theorem State.take_program (s : State) (rsp : Rsp) : (s.take rsp).host.program = s.host.program := rfl
@[simp] theorem State.take_held (s : State) (rsp : Rsp) : (s.take rsp).host.held = s.host.held := rfl
@[simp] theorem State.take_seen (s : State) (rsp : Rsp) : (s.take rsp).host.seen = none := rfl
@[simp] theorem State.take_issued (s : State) (rsp : Rsp) : (s.take rsp).host.issued = s.host.issued := rfl
@[simp] theorem State.take_received (s : State) (rsp : Rsp) :
    (s.take rsp).host.received = s.host.received ++ [rsp] := rfl

@[simp] theorem State.see_q (s : State) (offer : Option Rsp) : (s.see offer).q = s.q := rfl
@[simp] theorem State.see_inReset (s : State) (offer : Option Rsp) : (s.see offer).inReset = s.inReset := rfl
@[simp] theorem State.see_rom (s : State) (offer : Option Rsp) : (s.see offer).rom = s.rom := rfl
@[simp] theorem State.see_readyWait (s : State) (offer : Option Rsp) : (s.see offer).readyWait = s.readyWait := rfl
@[simp] theorem State.see_draw (s : State) (offer : Option Rsp) : (s.see offer).draw = s.draw := rfl
@[simp] theorem State.see_script (s : State) (offer : Option Rsp) : (s.see offer).host.script = s.host.script := rfl
@[simp] theorem State.see_program (s : State) (offer : Option Rsp) : (s.see offer).host.program = s.host.program := rfl
@[simp] theorem State.see_held (s : State) (offer : Option Rsp) : (s.see offer).host.held = s.host.held := rfl
@[simp] theorem State.see_seen (s : State) (offer : Option Rsp) : (s.see offer).host.seen = offer := rfl
@[simp] theorem State.see_issued (s : State) (offer : Option Rsp) : (s.see offer).host.issued = s.host.issued := rfl
@[simp] theorem State.see_received (s : State) (offer : Option Rsp) :
    (s.see offer).host.received = s.host.received := rfl

@[simp] theorem State.tick_q (s : State) : (s.tick).q = s.q.map InFlight.tick := rfl
@[simp] theorem State.tick_inReset (s : State) : (s.tick).inReset = s.inReset := rfl
@[simp] theorem State.tick_rom (s : State) : (s.tick).rom = s.rom := rfl
@[simp] theorem State.tick_readyWait (s : State) :
    (s.tick).readyWait = if s.readyWait = 0 then Config.readyGap s.draw else s.readyWait - 1 := rfl
@[simp] theorem State.tick_draw (s : State) : (s.tick).draw = s.draw + 1 := rfl
@[simp] theorem State.tick_host (s : State) : (s.tick).host = s.host := rfl

@[simp] theorem State.resetAssert_q (s : State) : (s.resetAssert).q = [] := rfl
@[simp] theorem State.resetAssert_inReset (s : State) : (s.resetAssert).inReset = true := rfl
@[simp] theorem State.resetAssert_rom (s : State) : (s.resetAssert).rom = s.rom := rfl
@[simp] theorem State.resetAssert_readyWait (s : State) :
    (s.resetAssert).readyWait = Config.readyAfterReset + Config.readyGap s.draw := rfl
@[simp] theorem State.resetAssert_draw (s : State) : (s.resetAssert).draw = s.draw + 1 := rfl
@[simp] theorem State.resetAssert_script (s : State) : (s.resetAssert).host.script = s.host.script := rfl
@[simp] theorem State.resetAssert_program (s : State) : (s.resetAssert).host.program = s.host.program := rfl
@[simp] theorem State.resetAssert_held (s : State) : (s.resetAssert).host.held = none := rfl
@[simp] theorem State.resetAssert_seen (s : State) : (s.resetAssert).host.seen = none := rfl
@[simp] theorem State.resetAssert_issued (s : State) : (s.resetAssert).host.issued = [] := rfl
@[simp] theorem State.resetAssert_received (s : State) : (s.resetAssert).host.received = [] := rfl

@[simp] theorem State.resetRelease_q (s : State) : (s.resetRelease).q = s.q := rfl
@[simp] theorem State.resetRelease_inReset (s : State) : (s.resetRelease).inReset = false := rfl
@[simp] theorem State.resetRelease_rom (s : State) : (s.resetRelease).rom = s.rom := rfl
@[simp] theorem State.resetRelease_readyWait (s : State) : (s.resetRelease).readyWait = s.readyWait := rfl
@[simp] theorem State.resetRelease_draw (s : State) : (s.resetRelease).draw = s.draw := rfl
@[simp] theorem State.resetRelease_host (s : State) : (s.resetRelease).host = s.host := rfl

@[simp] theorem State.advance_q (s : State) : s.advance.q = s.q := rfl
@[simp] theorem State.advance_inReset (s : State) : s.advance.inReset = s.inReset := rfl
@[simp] theorem State.advance_rom (s : State) : s.advance.rom = s.rom := rfl
@[simp] theorem State.advance_readyWait (s : State) : s.advance.readyWait = s.readyWait := rfl
@[simp] theorem State.advance_draw (s : State) : s.advance.draw = s.draw := rfl
@[simp] theorem State.advance_host (s : State) : s.advance.host = s.host.advance := rfl

@[simp] theorem HostSide.advance_held (h : HostSide) : h.advance.held = h.held := by
  unfold HostSide.advance; split <;> [rfl; (split <;> rfl)]
@[simp] theorem HostSide.advance_seen (h : HostSide) : h.advance.seen = h.seen := by
  unfold HostSide.advance; split <;> [rfl; (split <;> rfl)]
@[simp] theorem HostSide.advance_issued (h : HostSide) : h.advance.issued = h.issued := by
  unfold HostSide.advance; split <;> [rfl; (split <;> rfl)]
@[simp] theorem HostSide.advance_received (h : HostSide) : h.advance.received = h.received := by
  unfold HostSide.advance; split <;> [rfl; (split <;> rfl)]

@[simp] theorem HostSide.advance_of_script (h : HostSide) (ev : HostEvent) (rest : List HostEvent) (hs : h.script = ev :: rest) :
    h.advance = { h with script := rest } := by simp [HostSide.advance, hs]

@[simp] theorem HostSide.nextEvent_of_script (h : HostSide) (ev : HostEvent) (rest : List HostEvent)
    (hs : h.script = ev :: rest) : h.nextEvent = ev := by simp [HostSide.nextEvent, hs]

@[simp] theorem InFlight.tick_rsp (x : InFlight) : x.tick.rsp = x.rsp := rfl
@[simp] theorem InFlight.tick_wait (x : InFlight) : x.tick.wait = x.wait - 1 := rfl

@[simp] theorem InFlight.rsp_comp_tick : InFlight.rsp ∘ InFlight.tick = InFlight.rsp := rfl

end Sys2Proof.Machine
end

