-- ==== Sys2Proof/Laws/Ops.lean ====
section
/-! SUPPORT. One lemma for each shared operation that says once everything it can do. -/

namespace Sys2Proof.Machine

theorem State.canAccept_iff (s : State) : s.canAccept = true ↔ s.Ready := by
  simp only [State.canAccept, State.hasRoom, Bool.and_eq_true, Bool.not_eq_true', decide_eq_true_eq, beq_iff_eq]
  exact ⟨fun ⟨⟨h₁, h₂⟩, h₃⟩ => ⟨h₁, h₂, h₃⟩, fun ⟨h₁, h₂, h₃⟩ => ⟨⟨h₁, h₂⟩, h₃⟩⟩

theorem State.canAccept_eq_false_iff (s : State) : s.canAccept = false ↔ ¬ s.Ready := by
  rw [← s.canAccept_iff, Bool.not_eq_true]

theorem State.cmdReady_iff (s : State) : s.cmdReady false = true ↔ s.resetRelease.Ready := by
  rw [← State.canAccept_iff]; rfl

theorem State.issue_of_ready (s : State) (cmd : Cmd) (rsp : Rsp) (h : s.Ready) : s.issue cmd rsp = s.accept cmd rsp := by
  simp [State.issue, s.canAccept_iff.mpr h]

theorem State.issue_of_not_ready (s : State) (cmd : Cmd) (rsp : Rsp) (h : ¬ s.Ready) :
    s.issue cmd rsp = s.hold cmd := by
  simp [State.issue, s.canAccept_eq_false_iff.mpr h]

/-- A command offered is accepted or waits. -/
theorem State.issue_cases (s : State) (cmd : Cmd) (rsp : Rsp) :
    (s.Ready ∧ s.issue cmd rsp = s.accept cmd rsp) ∨ (¬ s.Ready ∧ s.issue cmd rsp = s.hold cmd) := by
  by_cases h : s.Ready
  · exact .inl ⟨h, s.issue_of_ready cmd rsp h⟩
  · exact .inr ⟨h, s.issue_of_not_ready cmd rsp h⟩

theorem State.answered_accept (s : State) (cmd : Cmd) (rsp : Rsp) : Answered s cmd rsp (s.accept cmd rsp) :=
  ⟨⟨_, Nat.le_add_left _ _, rfl⟩, rfl, rfl, rfl, rfl, rfl⟩

theorem State.answered_issue (s : State) (cmd : Cmd) (rsp : Rsp) (h : s.Ready) :
    Answered s cmd rsp (s.issue cmd rsp) := by
  rw [s.issue_of_ready cmd rsp h]; exact s.answered_accept cmd rsp

/-- Every meaning offers its encoding with some response, and always answers a next state. -/
theorem exec_eq_issue (i : Instr) (s : State) : ∃ rsp, exec i s = .next (s.issue (encode i) rsp) := by
  cases i <;> exact ⟨_, rfl⟩

theorem runCommand_eq_issue (cmd : Cmd) (s : State) (h : ∀ i, decode cmd = .ok i → encode i = cmd) :
    ∃ rsp, runCommand cmd s = .next (s.issue cmd rsp) := by
  unfold runCommand
  split
  · next i hi =>
    obtain ⟨rsp, hr⟩ := exec_eq_issue i s
    exact ⟨rsp, by rw [hr, h i hi]⟩
  · exact ⟨_, rfl⟩

theorem State.offered_cases (s : State) :
    (s.offered = none ∧ (s.q = [] ∨ ∃ x rest, s.q = x :: rest ∧ 0 < x.wait)) ∨
      (∃ r rest, s.q = { rsp := r, wait := 0 } :: rest ∧ s.offered = some r) := by
  unfold State.offered
  rcases hq : s.q with _ | ⟨⟨r, w⟩, rest⟩
  · exact .inl ⟨rfl, .inl rfl⟩
  · by_cases hw : w = 0
    · subst hw; exact .inr ⟨r, rest, rfl, by simp⟩
    · exact .inl ⟨by simp [hw], .inr ⟨_, rest, rfl, Nat.pos_of_ne_zero hw⟩⟩

/-- The response channel answers a next state in three ways only. -/
theorem deliver_cases {rdy : Bool} {s s' : State} (h : deliver rdy s = .next s') :
    (s.offered = none ∧ s' = s.see none) ∨
      (∃ r, s.offered = some r ∧ rdy = true ∧ responseFault s.host.issued s.host.received r = none ∧ s' = s.take r) ∨
      (∃ r, s.offered = some r ∧ rdy = false ∧ s' = s.see (some r)) := by
  unfold deliver at h
  split at h
  · next ho => cases h; exact .inl ⟨ho, rfl⟩
  · next r ho =>
    split at h
    · cases h
    · split at h
      · next hr =>
        split at h
        · cases h
        · next hf => cases h; exact .inr (.inl ⟨r, ho, hr, hf, rfl⟩)
      · next hr => cases h; exact .inr (.inr ⟨r, ho, by simpa using hr, rfl⟩)

theorem deliver_ne_refused (rdy : Bool) (s : State) (r : Refusal) : deliver rdy s ≠ .refused r := by
  unfold deliver
  split
  · exact nofun
  · split
    · exact nofun
    · split
      · split <;> exact nofun
      · exact nofun

theorem finishEdge_eq_next {rdy : Bool} {s s' : State} (h : finishEdge rdy s = .next s') :
    ∃ t, deliver rdy s = .next t ∧ s' = t.tick := by
  unfold finishEdge at h
  split at h
  · next t ht => cases h; exact ⟨t, ht, rfl⟩
  · cases h
  · cases h

/-- The command channel: nothing offered, or a command run. -/
theorem commandChannel_cases (e : Edge) (s : State) :
    (commandChannel e s = .next s ∧ (e.cmdValid = false ∨ e.cmdData = none)) ∨
      (∃ cmd, e.cmdValid = true ∧ e.cmdData = some cmd ∧ commandChannel e s = runCommand cmd s) := by
  unfold commandChannel
  rcases hv : e.cmdValid with _ | _ <;> rcases hd : e.cmdData with _ | cmd <;> simp

theorem dutyBroken_eq_none_iff (held : Option Cmd) (e : Edge) :
    dutyBroken held e = none ↔ held = none ∨ ∃ cmd, held = some cmd ∧ e.cmdValid = true ∧ e.cmdData = some cmd := by
  rcases held with _ | cmd
  · simp [dutyBroken]
  · simp only [dutyBroken]
    by_cases hv : e.cmdValid = true <;> by_cases hd : e.cmdData = some cmd <;> simp [hv, hd]

/-- Everything an edge can do when it answers a next state: a reset, or an edge at which the host keeps its duties and
each of the two channels has taken its turn. -/
theorem clockEdge_cases {e : Edge} {s s' : State} (h : clockEdge e s = .next s') :
    (e.rst = true ∧ s' = s.resetAssert) ∨
      (e.rst = false ∧ dutyBroken s.host.held e = none ∧ (e.cmdValid = true → e.cmdData ≠ none) ∧
        ∃ t u, commandChannel e s.resetRelease = .next t ∧ deliver e.rspReady t = .next u ∧ s' = u.tick) := by
  unfold clockEdge at h
  split at h
  · cases h
  · next hu =>
    split at h
    · next hr => cases h; exact .inl ⟨hr, rfl⟩
    · next hr =>
      split at h
      · cases h
      · next hd =>
        unfold runEdge at h
        split at h
        · next t ht =>
          obtain ⟨u, hu', rfl⟩ := finishEdge_eq_next h
          refine .inr ⟨by simpa using hr, hd, ?_, t, u, ht, hu', rfl⟩
          intro hv hn
          simp [hv, hn] at hu
        · cases h
        · cases h

/-- Everything a step can do when it answers a next state. -/
theorem step_cases {s s' : State} (h : step s = .next s') :
    ∃ e, s.host.nextEvent = .edge e ∧ clockEdge e s.advance = .next s' := by
  unfold step nextEdge hostEvent at h
  split at h
  · next e he => exact ⟨e, he, h⟩
  · cases h

theorem step_of_edge {s : State} {e : Edge} (h : s.host.nextEvent = .edge e) : step s = clockEdge e s.advance := by
  simp [step, nextEdge, hostEvent, h]

theorem runEdges_zero (s : State) : runEdges 0 s = .next s := rfl

theorem runEdges_succ_iff (n : Nat) (s s' : State) :
    runEdges (n + 1) s = .next s' ↔ ∃ t, step s = .next t ∧ runEdges n t = .next s' := by
  rw [runEdges]
  rcases step s with t | f | r <;> simp

theorem runEdges_add {m n : Nat} {s t u : State} (h : runEdges m s = .next t) (h' : runEdges n t = .next u) :
    runEdges (m + n) s = .next u := by
  induction m generalizing s with
  | zero => cases h; rwa [Nat.zero_add]
  | succ m ih =>
    obtain ⟨v, hv, h⟩ := (runEdges_succ_iff ..).mp h
    rw [Nat.succ_add]
    exact (runEdges_succ_iff ..).mpr ⟨v, hv, ih h⟩

end Sys2Proof.Machine
end

