-- ==== Sys2Proof/Laws/Bits.lean ====
section
/-! SUPPORT. Command and response words as numbers: concatenations and fields become sums, quotients and remainders, which
omega decides. -/

namespace Sys2Proof

theorem toNat_cat {n m : Nat} (x : BitVec n) (y : BitVec m) : (x ++ y).toNat = x.toNat * 2 ^ m + y.toNat := by
  rw [BitVec.toNat_append, ← Nat.shiftLeft_add_eq_or_of_lt y.isLt, Nat.shiftLeft_eq]

theorem toNat_field {n : Nat} (x : BitVec n) (lo len : Nat) :
    (x.extractLsb' lo len).toNat = x.toNat / 2 ^ lo % 2 ^ len := by
  rw [BitVec.extractLsb'_toNat, Nat.shiftRight_eq_div_pow]

/-- Masking off the low `k` bits. -/
theorem toNat_mask (cmd : Cmd) (mask : Cmd) (k : Nat) (h : mask = BitVec.allOnes 32 <<< k) :
    (cmd &&& mask).toNat = cmd.toNat / 2 ^ k * 2 ^ k % 2 ^ 32 := by
  rw [h, ← BitVec.shiftLeft_ushiftRight, BitVec.toNat_shiftLeft, BitVec.toNat_ushiftRight, Nat.shiftLeft_eq,
    Nat.shiftRight_eq_div_pow]

theorem toNat_mask_16 (cmd : Cmd) : (cmd &&& 0xFFFF0000#32).toNat = cmd.toNat / 2 ^ 16 * 2 ^ 16 % 2 ^ 32 :=
  toNat_mask cmd _ 16 (by decide)
theorem toNat_mask_8 (cmd : Cmd) : (cmd &&& 0xFFFFFF00#32).toNat = cmd.toNat / 2 ^ 8 * 2 ^ 8 % 2 ^ 32 :=
  toNat_mask cmd _ 8 (by decide)
theorem toNat_mask_24 (cmd : Cmd) : (cmd &&& 0xFF000000#32).toNat = cmd.toNat / 2 ^ 24 * 2 ^ 24 % 2 ^ 32 :=
  toNat_mask cmd _ 24 (by decide)

/-! ### Fields of a command word -/

theorem cmdOp_toNat (cmd : Cmd) : (cmdOp cmd).toNat = cmd.toNat / 2 ^ 28 % 2 ^ 4 := toNat_field ..
theorem cmdRsv_toNat (cmd : Cmd) : (cmdRsv cmd).toNat = cmd.toNat / 2 ^ 24 % 2 ^ 4 := toNat_field ..
theorem cmdOpnd_toNat (cmd : Cmd) : (cmdOpnd cmd).toNat = cmd.toNat / 2 ^ 0 % 2 ^ 24 := toNat_field ..
theorem cmdFn_toNat (cmd : Cmd) : (cmdFn cmd).toNat = cmd.toNat / 2 ^ 28 % 2 ^ 3 := toNat_field ..
theorem opndWord_toNat (cmd : Cmd) : (opndWord cmd).toNat = cmd.toNat / 2 ^ 0 % 2 ^ 16 := toNat_field ..
theorem opndByte_toNat (cmd : Cmd) : (opndByte cmd).toNat = cmd.toNat / 2 ^ 0 % 2 ^ 8 := toNat_field ..
theorem laneHi_toNat (cmd : Cmd) : (laneHi cmd).toNat = cmd.toNat / 2 ^ 16 % 2 ^ 8 := toNat_field ..
theorem laneMid_toNat (cmd : Cmd) : (laneMid cmd).toNat = cmd.toNat / 2 ^ 8 % 2 ^ 8 := toNat_field ..
theorem laneLo_toNat (cmd : Cmd) : (laneLo cmd).toNat = cmd.toNat / 2 ^ 0 % 2 ^ 8 := toNat_field ..

/-! ### The encoding of each command -/

theorem toNat_encode_encw (w : Word) : (encode (.encw w)).toNat = 0x10000000 + (w.toNat) := by
  unfold encode; rw [toNat_cat, toNat_cat, toNat_cat]; simp; try omega
theorem toNat_encode_encb (b : Byte) : (encode (.encb b)).toNat = 0x20000000 + (b.toNat) := by
  unfold encode; rw [toNat_cat, toNat_cat, toNat_cat, toNat_cat]; simp; try omega
theorem toNat_encode_dect (l1 l2 l3 : Lane) : (encode (.dect l1 l2 l3)).toNat = 0x30000000 + (l1.toNat * 2 ^ 16 + l2.toNat * 2 ^ 8 + l3.toNat) := by
  unfold encode; rw [toNat_cat, toNat_cat, toNat_cat, toNat_cat]; simp; try omega
theorem toNat_encode_decp (l1 l2 : Lane) : (encode (.decp l1 l2)).toNat = 0x40000000 + (l1.toNat * 2 ^ 8 + l2.toNat) := by
  unfold encode; rw [toNat_cat, toNat_cat, toNat_cat, toNat_cat]; simp; try omega
theorem toNat_encode_encwd (w : Word) : (encode (.encwd w)).toNat = 0x90000000 + (w.toNat) := by
  unfold encode; rw [toNat_cat, toNat_cat, toNat_cat]; simp; try omega
theorem toNat_encode_encbd (b : Byte) : (encode (.encbd b)).toNat = 0xa0000000 + (b.toNat) := by
  unfold encode; rw [toNat_cat, toNat_cat, toNat_cat, toNat_cat]; simp; try omega
theorem toNat_encode_dectd (l1 l2 l3 : Lane) : (encode (.dectd l1 l2 l3)).toNat = 0xb0000000 + (l1.toNat * 2 ^ 16 + l2.toNat * 2 ^ 8 + l3.toNat) := by
  unfold encode; rw [toNat_cat, toNat_cat, toNat_cat, toNat_cat]; simp; try omega
theorem toNat_encode_decpd (l1 l2 : Lane) : (encode (.decpd l1 l2)).toNat = 0xc0000000 + (l1.toNat * 2 ^ 8 + l2.toNat) := by
  unfold encode; rw [toNat_cat, toNat_cat, toNat_cat, toNat_cat]; simp; try omega

/-! ### Fields of each command's encoding -/

@[simp] theorem cmdOp_encode_encw (w : Word) : cmdOp (encode (.encw w)) = 0x1#4 := by
  apply BitVec.eq_of_toNat_eq; rw [cmdOp_toNat, toNat_encode_encw]; have := w.isLt; simp; try omega
@[simp] theorem cmdRsv_encode_encw (w : Word) : cmdRsv (encode (.encw w)) = 0#4 := by
  apply BitVec.eq_of_toNat_eq; rw [cmdRsv_toNat, toNat_encode_encw]; have := w.isLt; simp; try omega
@[simp] theorem cmdFn_encode_encw (w : Word) : cmdFn (encode (.encw w)) = 1#3 := by
  apply BitVec.eq_of_toNat_eq; rw [cmdFn_toNat, toNat_encode_encw]; have := w.isLt; simp; try omega
@[simp] theorem cmdDigitMode_encode_encw (w : Word) : cmdDigitMode (encode (.encw w)) = false := by
  rw [cmdDigitMode, ← BitVec.testBit_toNat, toNat_encode_encw, Nat.testBit_eq_decide_div_mod_eq]; have := w.isLt; simp; try omega
@[simp] theorem laneHi_encode_encw (w : Word) : laneHi (encode (.encw w)) = 0#8 := by
  apply BitVec.eq_of_toNat_eq; rw [laneHi_toNat, toNat_encode_encw]; have := w.isLt; simp; try omega
@[simp] theorem opndWord_encode_encw (w : Word) : opndWord (encode (.encw w)) = w := by
  apply BitVec.eq_of_toNat_eq; rw [opndWord_toNat, toNat_encode_encw]; have := w.isLt; simp; try omega

@[simp] theorem cmdOp_encode_encb (b : Byte) : cmdOp (encode (.encb b)) = 0x2#4 := by
  apply BitVec.eq_of_toNat_eq; rw [cmdOp_toNat, toNat_encode_encb]; have := b.isLt; simp; try omega
@[simp] theorem cmdRsv_encode_encb (b : Byte) : cmdRsv (encode (.encb b)) = 0#4 := by
  apply BitVec.eq_of_toNat_eq; rw [cmdRsv_toNat, toNat_encode_encb]; have := b.isLt; simp; try omega
@[simp] theorem cmdFn_encode_encb (b : Byte) : cmdFn (encode (.encb b)) = 2#3 := by
  apply BitVec.eq_of_toNat_eq; rw [cmdFn_toNat, toNat_encode_encb]; have := b.isLt; simp; try omega
@[simp] theorem cmdDigitMode_encode_encb (b : Byte) : cmdDigitMode (encode (.encb b)) = false := by
  rw [cmdDigitMode, ← BitVec.testBit_toNat, toNat_encode_encb, Nat.testBit_eq_decide_div_mod_eq]; have := b.isLt; simp; try omega
@[simp] theorem laneHi_encode_encb (b : Byte) : laneHi (encode (.encb b)) = 0#8 := by
  apply BitVec.eq_of_toNat_eq; rw [laneHi_toNat, toNat_encode_encb]; have := b.isLt; simp; try omega
@[simp] theorem laneMid_encode_encb (b : Byte) : laneMid (encode (.encb b)) = 0#8 := by
  apply BitVec.eq_of_toNat_eq; rw [laneMid_toNat, toNat_encode_encb]; have := b.isLt; simp; try omega
@[simp] theorem opndByte_encode_encb (b : Byte) : opndByte (encode (.encb b)) = b := by
  apply BitVec.eq_of_toNat_eq; rw [opndByte_toNat, toNat_encode_encb]; have := b.isLt; simp; try omega

@[simp] theorem cmdOp_encode_dect (l1 l2 l3 : Lane) : cmdOp (encode (.dect l1 l2 l3)) = 0x3#4 := by
  apply BitVec.eq_of_toNat_eq; rw [cmdOp_toNat, toNat_encode_dect]; have := l1.isLt; have := l2.isLt; have := l3.isLt; simp; try omega
@[simp] theorem cmdRsv_encode_dect (l1 l2 l3 : Lane) : cmdRsv (encode (.dect l1 l2 l3)) = 0#4 := by
  apply BitVec.eq_of_toNat_eq; rw [cmdRsv_toNat, toNat_encode_dect]; have := l1.isLt; have := l2.isLt; have := l3.isLt; simp; try omega
@[simp] theorem cmdFn_encode_dect (l1 l2 l3 : Lane) : cmdFn (encode (.dect l1 l2 l3)) = 3#3 := by
  apply BitVec.eq_of_toNat_eq; rw [cmdFn_toNat, toNat_encode_dect]; have := l1.isLt; have := l2.isLt; have := l3.isLt; simp; try omega
@[simp] theorem cmdDigitMode_encode_dect (l1 l2 l3 : Lane) : cmdDigitMode (encode (.dect l1 l2 l3)) = false := by
  rw [cmdDigitMode, ← BitVec.testBit_toNat, toNat_encode_dect, Nat.testBit_eq_decide_div_mod_eq]; have := l1.isLt; have := l2.isLt; have := l3.isLt; simp; try omega
@[simp] theorem laneHi_encode_dect (l1 l2 l3 : Lane) : laneHi (encode (.dect l1 l2 l3)) = l1 := by
  apply BitVec.eq_of_toNat_eq; rw [laneHi_toNat, toNat_encode_dect]; have := l1.isLt; have := l2.isLt; have := l3.isLt; simp; try omega
@[simp] theorem laneMid_encode_dect (l1 l2 l3 : Lane) : laneMid (encode (.dect l1 l2 l3)) = l2 := by
  apply BitVec.eq_of_toNat_eq; rw [laneMid_toNat, toNat_encode_dect]; have := l1.isLt; have := l2.isLt; have := l3.isLt; simp; try omega
@[simp] theorem laneLo_encode_dect (l1 l2 l3 : Lane) : laneLo (encode (.dect l1 l2 l3)) = l3 := by
  apply BitVec.eq_of_toNat_eq; rw [laneLo_toNat, toNat_encode_dect]; have := l1.isLt; have := l2.isLt; have := l3.isLt; simp; try omega

@[simp] theorem cmdOp_encode_decp (l1 l2 : Lane) : cmdOp (encode (.decp l1 l2)) = 0x4#4 := by
  apply BitVec.eq_of_toNat_eq; rw [cmdOp_toNat, toNat_encode_decp]; have := l1.isLt; have := l2.isLt; simp; try omega
@[simp] theorem cmdRsv_encode_decp (l1 l2 : Lane) : cmdRsv (encode (.decp l1 l2)) = 0#4 := by
  apply BitVec.eq_of_toNat_eq; rw [cmdRsv_toNat, toNat_encode_decp]; have := l1.isLt; have := l2.isLt; simp; try omega
@[simp] theorem cmdFn_encode_decp (l1 l2 : Lane) : cmdFn (encode (.decp l1 l2)) = 4#3 := by
  apply BitVec.eq_of_toNat_eq; rw [cmdFn_toNat, toNat_encode_decp]; have := l1.isLt; have := l2.isLt; simp; try omega
@[simp] theorem cmdDigitMode_encode_decp (l1 l2 : Lane) : cmdDigitMode (encode (.decp l1 l2)) = false := by
  rw [cmdDigitMode, ← BitVec.testBit_toNat, toNat_encode_decp, Nat.testBit_eq_decide_div_mod_eq]; have := l1.isLt; have := l2.isLt; simp; try omega
@[simp] theorem laneHi_encode_decp (l1 l2 : Lane) : laneHi (encode (.decp l1 l2)) = 0#8 := by
  apply BitVec.eq_of_toNat_eq; rw [laneHi_toNat, toNat_encode_decp]; have := l1.isLt; have := l2.isLt; simp; try omega
@[simp] theorem laneMid_encode_decp (l1 l2 : Lane) : laneMid (encode (.decp l1 l2)) = l1 := by
  apply BitVec.eq_of_toNat_eq; rw [laneMid_toNat, toNat_encode_decp]; have := l1.isLt; have := l2.isLt; simp; try omega
@[simp] theorem laneLo_encode_decp (l1 l2 : Lane) : laneLo (encode (.decp l1 l2)) = l2 := by
  apply BitVec.eq_of_toNat_eq; rw [laneLo_toNat, toNat_encode_decp]; have := l1.isLt; have := l2.isLt; simp; try omega

@[simp] theorem cmdOp_encode_encwd (w : Word) : cmdOp (encode (.encwd w)) = 0x9#4 := by
  apply BitVec.eq_of_toNat_eq; rw [cmdOp_toNat, toNat_encode_encwd]; have := w.isLt; simp; try omega
@[simp] theorem cmdRsv_encode_encwd (w : Word) : cmdRsv (encode (.encwd w)) = 0#4 := by
  apply BitVec.eq_of_toNat_eq; rw [cmdRsv_toNat, toNat_encode_encwd]; have := w.isLt; simp; try omega
@[simp] theorem cmdFn_encode_encwd (w : Word) : cmdFn (encode (.encwd w)) = 1#3 := by
  apply BitVec.eq_of_toNat_eq; rw [cmdFn_toNat, toNat_encode_encwd]; have := w.isLt; simp; try omega
@[simp] theorem cmdDigitMode_encode_encwd (w : Word) : cmdDigitMode (encode (.encwd w)) = true := by
  rw [cmdDigitMode, ← BitVec.testBit_toNat, toNat_encode_encwd, Nat.testBit_eq_decide_div_mod_eq]; have := w.isLt; simp; try omega
@[simp] theorem laneHi_encode_encwd (w : Word) : laneHi (encode (.encwd w)) = 0#8 := by
  apply BitVec.eq_of_toNat_eq; rw [laneHi_toNat, toNat_encode_encwd]; have := w.isLt; simp; try omega
@[simp] theorem opndWord_encode_encwd (w : Word) : opndWord (encode (.encwd w)) = w := by
  apply BitVec.eq_of_toNat_eq; rw [opndWord_toNat, toNat_encode_encwd]; have := w.isLt; simp; try omega

@[simp] theorem cmdOp_encode_encbd (b : Byte) : cmdOp (encode (.encbd b)) = 0xa#4 := by
  apply BitVec.eq_of_toNat_eq; rw [cmdOp_toNat, toNat_encode_encbd]; have := b.isLt; simp; try omega
@[simp] theorem cmdRsv_encode_encbd (b : Byte) : cmdRsv (encode (.encbd b)) = 0#4 := by
  apply BitVec.eq_of_toNat_eq; rw [cmdRsv_toNat, toNat_encode_encbd]; have := b.isLt; simp; try omega
@[simp] theorem cmdFn_encode_encbd (b : Byte) : cmdFn (encode (.encbd b)) = 2#3 := by
  apply BitVec.eq_of_toNat_eq; rw [cmdFn_toNat, toNat_encode_encbd]; have := b.isLt; simp; try omega
@[simp] theorem cmdDigitMode_encode_encbd (b : Byte) : cmdDigitMode (encode (.encbd b)) = true := by
  rw [cmdDigitMode, ← BitVec.testBit_toNat, toNat_encode_encbd, Nat.testBit_eq_decide_div_mod_eq]; have := b.isLt; simp; try omega
@[simp] theorem laneHi_encode_encbd (b : Byte) : laneHi (encode (.encbd b)) = 0#8 := by
  apply BitVec.eq_of_toNat_eq; rw [laneHi_toNat, toNat_encode_encbd]; have := b.isLt; simp; try omega
@[simp] theorem laneMid_encode_encbd (b : Byte) : laneMid (encode (.encbd b)) = 0#8 := by
  apply BitVec.eq_of_toNat_eq; rw [laneMid_toNat, toNat_encode_encbd]; have := b.isLt; simp; try omega
@[simp] theorem opndByte_encode_encbd (b : Byte) : opndByte (encode (.encbd b)) = b := by
  apply BitVec.eq_of_toNat_eq; rw [opndByte_toNat, toNat_encode_encbd]; have := b.isLt; simp; try omega

@[simp] theorem cmdOp_encode_dectd (l1 l2 l3 : Lane) : cmdOp (encode (.dectd l1 l2 l3)) = 0xb#4 := by
  apply BitVec.eq_of_toNat_eq; rw [cmdOp_toNat, toNat_encode_dectd]; have := l1.isLt; have := l2.isLt; have := l3.isLt; simp; try omega
@[simp] theorem cmdRsv_encode_dectd (l1 l2 l3 : Lane) : cmdRsv (encode (.dectd l1 l2 l3)) = 0#4 := by
  apply BitVec.eq_of_toNat_eq; rw [cmdRsv_toNat, toNat_encode_dectd]; have := l1.isLt; have := l2.isLt; have := l3.isLt; simp; try omega
@[simp] theorem cmdFn_encode_dectd (l1 l2 l3 : Lane) : cmdFn (encode (.dectd l1 l2 l3)) = 3#3 := by
  apply BitVec.eq_of_toNat_eq; rw [cmdFn_toNat, toNat_encode_dectd]; have := l1.isLt; have := l2.isLt; have := l3.isLt; simp; try omega
@[simp] theorem cmdDigitMode_encode_dectd (l1 l2 l3 : Lane) : cmdDigitMode (encode (.dectd l1 l2 l3)) = true := by
  rw [cmdDigitMode, ← BitVec.testBit_toNat, toNat_encode_dectd, Nat.testBit_eq_decide_div_mod_eq]; have := l1.isLt; have := l2.isLt; have := l3.isLt; simp; try omega
@[simp] theorem laneHi_encode_dectd (l1 l2 l3 : Lane) : laneHi (encode (.dectd l1 l2 l3)) = l1 := by
  apply BitVec.eq_of_toNat_eq; rw [laneHi_toNat, toNat_encode_dectd]; have := l1.isLt; have := l2.isLt; have := l3.isLt; simp; try omega
@[simp] theorem laneMid_encode_dectd (l1 l2 l3 : Lane) : laneMid (encode (.dectd l1 l2 l3)) = l2 := by
  apply BitVec.eq_of_toNat_eq; rw [laneMid_toNat, toNat_encode_dectd]; have := l1.isLt; have := l2.isLt; have := l3.isLt; simp; try omega
@[simp] theorem laneLo_encode_dectd (l1 l2 l3 : Lane) : laneLo (encode (.dectd l1 l2 l3)) = l3 := by
  apply BitVec.eq_of_toNat_eq; rw [laneLo_toNat, toNat_encode_dectd]; have := l1.isLt; have := l2.isLt; have := l3.isLt; simp; try omega

@[simp] theorem cmdOp_encode_decpd (l1 l2 : Lane) : cmdOp (encode (.decpd l1 l2)) = 0xc#4 := by
  apply BitVec.eq_of_toNat_eq; rw [cmdOp_toNat, toNat_encode_decpd]; have := l1.isLt; have := l2.isLt; simp; try omega
@[simp] theorem cmdRsv_encode_decpd (l1 l2 : Lane) : cmdRsv (encode (.decpd l1 l2)) = 0#4 := by
  apply BitVec.eq_of_toNat_eq; rw [cmdRsv_toNat, toNat_encode_decpd]; have := l1.isLt; have := l2.isLt; simp; try omega
@[simp] theorem cmdFn_encode_decpd (l1 l2 : Lane) : cmdFn (encode (.decpd l1 l2)) = 4#3 := by
  apply BitVec.eq_of_toNat_eq; rw [cmdFn_toNat, toNat_encode_decpd]; have := l1.isLt; have := l2.isLt; simp; try omega
@[simp] theorem cmdDigitMode_encode_decpd (l1 l2 : Lane) : cmdDigitMode (encode (.decpd l1 l2)) = true := by
  rw [cmdDigitMode, ← BitVec.testBit_toNat, toNat_encode_decpd, Nat.testBit_eq_decide_div_mod_eq]; have := l1.isLt; have := l2.isLt; simp; try omega
@[simp] theorem laneHi_encode_decpd (l1 l2 : Lane) : laneHi (encode (.decpd l1 l2)) = 0#8 := by
  apply BitVec.eq_of_toNat_eq; rw [laneHi_toNat, toNat_encode_decpd]; have := l1.isLt; have := l2.isLt; simp; try omega
@[simp] theorem laneMid_encode_decpd (l1 l2 : Lane) : laneMid (encode (.decpd l1 l2)) = l1 := by
  apply BitVec.eq_of_toNat_eq; rw [laneMid_toNat, toNat_encode_decpd]; have := l1.isLt; have := l2.isLt; simp; try omega
@[simp] theorem laneLo_encode_decpd (l1 l2 : Lane) : laneLo (encode (.decpd l1 l2)) = l2 := by
  apply BitVec.eq_of_toNat_eq; rw [laneLo_toNat, toNat_encode_decpd]; have := l1.isLt; have := l2.isLt; simp; try omega

/-- R66: the must-be-zero parts of LEGAL, on the lanes. -/
theorem opnd_hi_eq (cmd : Cmd) : (cmdOpnd cmd).extractLsb' 16 8 = laneHi cmd := by
  apply BitVec.eq_of_toNat_eq; rw [toNat_field, cmdOpnd_toNat, laneHi_toNat]; omega

theorem opnd_hi_mid_eq_zero_iff (cmd : Cmd) :
    (cmdOpnd cmd).extractLsb' 8 16 = 0#16 ↔ laneHi cmd = 0#8 ∧ laneMid cmd = 0#8 := by
  simp only [← BitVec.toNat_inj, toNat_field, cmdOpnd_toNat, laneHi_toNat, laneMid_toNat, BitVec.toNat_ofNat]
  omega

namespace Machine

/-! ### Fields of a response word -/

theorem rspStatus_toNat (rsp : Rsp) : (rspStatus rsp).toNat = rsp.toNat / 2 ^ 28 % 2 ^ 4 := toNat_field ..
theorem rspOp_toNat (rsp : Rsp) : (rspOp rsp).toNat = rsp.toNat / 2 ^ 24 % 2 ^ 4 := toNat_field ..
theorem rspData_toNat (rsp : Rsp) : (rspData rsp).toNat = rsp.toNat / 2 ^ 0 % 2 ^ 24 := toNat_field ..
theorem rspHi_toNat (rsp : Rsp) : (rspHi rsp).toNat = rsp.toNat / 2 ^ 16 % 2 ^ 8 := toNat_field ..
theorem rspMid_toNat (rsp : Rsp) : (rspMid rsp).toNat = rsp.toNat / 2 ^ 8 % 2 ^ 8 := toNat_field ..
theorem rspLo_toNat (rsp : Rsp) : (rspLo rsp).toNat = rsp.toNat / 2 ^ 0 % 2 ^ 8 := toNat_field ..

theorem toNat_respond (cmd : Cmd) (st : Status) (data : BitVec 24) :
    (respond cmd st data).toNat = st.code.toNat * 2 ^ 28 + (cmdOp cmd).toNat * 2 ^ 24 + data.toNat := by
  unfold respond; rw [toNat_cat, toNat_cat]; simp; omega

@[simp] theorem rspStatus_respond (cmd : Cmd) (st : Status) (data : BitVec 24) :
    rspStatus (respond cmd st data) = st.code := by
  apply BitVec.eq_of_toNat_eq
  rw [rspStatus_toNat, toNat_respond]
  have := data.isLt; have := (cmdOp cmd).isLt; have := st.code.isLt
  omega

@[simp] theorem rspOp_respond (cmd : Cmd) (st : Status) (data : BitVec 24) :
    rspOp (respond cmd st data) = cmdOp cmd := by
  apply BitVec.eq_of_toNat_eq
  rw [rspOp_toNat, toNat_respond]
  have := data.isLt; have := (cmdOp cmd).isLt; have := st.code.isLt
  omega

@[simp] theorem rspData_respond (cmd : Cmd) (st : Status) (data : BitVec 24) :
    rspData (respond cmd st data) = data := by
  apply BitVec.eq_of_toNat_eq
  rw [rspData_toNat, toNat_respond]
  have := data.isLt; have := (cmdOp cmd).isLt; have := st.code.isLt
  omega

theorem toNat_lanes3 (x y z : Lane) : (lanes3 x y z).toNat = x.toNat * 2 ^ 16 + y.toNat * 2 ^ 8 + z.toNat := by
  unfold lanes3; rw [toNat_cat, toNat_cat]; omega

@[simp] theorem rspHi_respond_lanes3 (cmd : Cmd) (st : Status) (x y z : Lane) :
    rspHi (respond cmd st (lanes3 x y z)) = x := by
  apply BitVec.eq_of_toNat_eq
  rw [rspHi_toNat, toNat_respond, toNat_lanes3]
  have := x.isLt; have := y.isLt; have := z.isLt
  omega

@[simp] theorem rspMid_respond_lanes3 (cmd : Cmd) (st : Status) (x y z : Lane) :
    rspMid (respond cmd st (lanes3 x y z)) = y := by
  apply BitVec.eq_of_toNat_eq
  rw [rspMid_toNat, toNat_respond, toNat_lanes3]
  have := x.isLt; have := y.isLt; have := z.isLt
  omega

@[simp] theorem rspLo_respond_lanes3 (cmd : Cmd) (st : Status) (x y z : Lane) :
    rspLo (respond cmd st (lanes3 x y z)) = z := by
  apply BitVec.eq_of_toNat_eq
  rw [rspLo_toNat, toNat_respond, toNat_lanes3]
  have := x.isLt; have := y.isLt; have := z.isLt
  omega

/-! ### The concatenations of R140 and the responses of the meanings -/

theorem cat_lanes (cmd : Cmd) (x y z : Lane) :
    (0x0#4 ++ cmdOp cmd ++ x ++ y ++ z : Rsp) = respond cmd .ok (lanes3 x y z) := by
  apply BitVec.eq_of_toNat_eq
  rw [toNat_respond, toNat_lanes3, toNat_cat, toNat_cat, toNat_cat, toNat_cat]
  simp [Status.code]; omega

theorem cat_error (cmd : Cmd) (k : ErrorKind) : (k.status.code ++ cmdOp cmd ++ 0x000000#24 : Rsp) = raise cmd k := rfl

theorem cat_word (cmd : Cmd) (v : Word) :
    (0x0#4 ++ cmdOp cmd ++ 0x00#8 ++ v.extractLsb' 8 8 ++ v.extractLsb' 0 8 : Rsp) = respondWord cmd (.ok v) := by
  apply BitVec.eq_of_toNat_eq
  rw [respondWord, toNat_respond, toNat_cat, toNat_cat, toNat_cat, toNat_cat, toNat_cat, toNat_field, toNat_field]
  have := v.isLt
  simp [Status.code]; omega

theorem cat_byte (cmd : Cmd) (v : Word) :
    (0x0#4 ++ cmdOp cmd ++ 0x0000#16 ++ v.extractLsb' 0 8 : Rsp) = respondByte cmd (.ok v) := by
  apply BitVec.eq_of_toNat_eq
  rw [respondByte, toNat_respond, toNat_cat, toNat_cat, toNat_cat, toNat_cat, toNat_field]
  simp [Status.code]; omega

end Machine

end Sys2Proof
end

