-- ==== Sys2Proof/Laws/PerInstr.lean ====
section
/-! SUPPORT. Families of lemmas over the constructors of `Instr`, one lemma for each. -/

namespace Sys2Proof.Laws.Legal

open Sys2Proof

/-- R66: the word of a command is legal. -/
def Statement (i : Instr) : Prop := legal (encode i) = true

theorem encw (w : Word) : Statement (.encw w) := by
  simp [Statement, legal, opnd_hi_eq]

theorem encb (b : Byte) : Statement (.encb b) := by
  simp [Statement, legal, opnd_hi_mid_eq_zero_iff]

theorem dect (l1 l2 l3 : Lane) : Statement (.dect l1 l2 l3) := by
  simp [Statement, legal]

theorem decp (l1 l2 : Lane) : Statement (.decp l1 l2) := by
  simp [Statement, legal, opnd_hi_eq]

theorem encwd (w : Word) : Statement (.encwd w) := by
  simp [Statement, legal, opnd_hi_eq]

theorem encbd (b : Byte) : Statement (.encbd b) := by
  simp [Statement, legal, opnd_hi_mid_eq_zero_iff]

theorem dectd (l1 l2 l3 : Lane) : Statement (.dectd l1 l2 l3) := by
  simp [Statement, legal]

theorem decpd (l1 l2 : Lane) : Statement (.decpd l1 l2) := by
  simp [Statement, legal, opnd_hi_eq]

end Sys2Proof.Laws.Legal
end

