-- ==== Sys2Proof/Laws/BlockFunction.lean ====
section
/-! SUPPORT. The block function of R140 case by case, in the responses of the shared operations. -/

namespace Sys2Proof.Machine

theorem legal_encode (i : Instr) : legal (encode i) = true := by
  cases i with
  | encw w => exact Laws.Legal.encw w
  | encb b => exact Laws.Legal.encb b
  | dect l1 l2 l3 => exact Laws.Legal.dect l1 l2 l3
  | decp l1 l2 => exact Laws.Legal.decp l1 l2
  | encwd w => exact Laws.Legal.encwd w
  | encbd b => exact Laws.Legal.encbd b
  | dectd l1 l2 l3 => exact Laws.Legal.dectd l1 l2 l3
  | decpd l1 l2 => exact Laws.Legal.decpd l1 l2

theorem blockFunction_of_illegal (rom : Vector Byte 45) (cmd : Cmd) (h : legal cmd = false) :
    blockFunction rom cmd = raise cmd .illegalCommand := by
  unfold blockFunction; rw [if_neg (by simp [h])]; rfl

theorem blockFunction_of_fn1 (rom : Vector Byte 45) (cmd : Cmd) (h : legal cmd = true) (hf : cmdFn cmd = 1#3) :
    blockFunction rom cmd =
      respond cmd .ok (lanes3 (laneOut (cmdDigitMode cmd) rom (enc16 (opndWord cmd)).c)
        (laneOut (cmdDigitMode cmd) rom (enc16 (opndWord cmd)).d)
        (laneOut (cmdDigitMode cmd) rom (enc16 (opndWord cmd)).e)) := by
  unfold blockFunction; rw [if_pos h, hf]; exact cat_lanes ..

theorem blockFunction_of_fn2 (rom : Vector Byte 45) (cmd : Cmd) (h : legal cmd = true) (hf : cmdFn cmd = 2#3) :
    blockFunction rom cmd =
      respond cmd .ok (lanes3 0x00#8 (laneOut (cmdDigitMode cmd) rom (enc16 ((opndByte cmd).setWidth 16)).c)
        (laneOut (cmdDigitMode cmd) rom (enc16 ((opndByte cmd).setWidth 16)).d)) := by
  unfold blockFunction; rw [if_pos h, hf]; exact cat_lanes ..

theorem blockFunction_of_fn3 (rom : Vector Byte 45) (cmd : Cmd) (h : legal cmd = true) (hf : cmdFn cmd = 3#3) :
    blockFunction rom cmd =
      respondWord cmd (dec3 (laneIn (cmdDigitMode cmd) rom (laneHi cmd)) (laneIn (cmdDigitMode cmd) rom (laneMid cmd))
        (laneIn (cmdDigitMode cmd) rom (laneLo cmd))) := by
  unfold blockFunction
  rw [if_pos h, hf]
  rcases dec3 (laneIn (cmdDigitMode cmd) rom (laneHi cmd)) (laneIn (cmdDigitMode cmd) rom (laneMid cmd))
    (laneIn (cmdDigitMode cmd) rom (laneLo cmd)) with k | v
  · rfl
  · exact cat_word ..

theorem blockFunction_of_fn4 (rom : Vector Byte 45) (cmd : Cmd) (h : legal cmd = true) (hf : cmdFn cmd = 4#3) :
    blockFunction rom cmd =
      respondByte cmd (dec3 (laneIn (cmdDigitMode cmd) rom (laneMid cmd)) (laneIn (cmdDigitMode cmd) rom (laneLo cmd))
        (some fillerDigit)) := by
  unfold blockFunction
  rw [if_pos h, hf]
  rcases dec3 (laneIn (cmdDigitMode cmd) rom (laneMid cmd)) (laneIn (cmdDigitMode cmd) rom (laneLo cmd))
    (some fillerDigit) with k | v
  · rfl
  · exact cat_byte ..

/-! ### The block function on each command -/

theorem blockFunction_encw (rom : Vector Byte 45) (w : Word) :
    blockFunction rom (encode (.encw w)) =
      respond (encode (.encw w)) .ok
        (lanes3 (alpha rom (enc16 w).c) (alpha rom (enc16 w).d) (alpha rom (enc16 w).e)) := by
  rw [blockFunction_of_fn1 _ _ (legal_encode _) (cmdFn_encode_encw w)]; simp [laneOut]

theorem blockFunction_encwd (rom : Vector Byte 45) (w : Word) :
    blockFunction rom (encode (.encwd w)) =
      respond (encode (.encwd w)) .ok
        (lanes3 (laneOfDigit (enc16 w).c) (laneOfDigit (enc16 w).d) (laneOfDigit (enc16 w).e)) := by
  rw [blockFunction_of_fn1 _ _ (legal_encode _) (cmdFn_encode_encwd w)]; simp [laneOut]

theorem blockFunction_encb (rom : Vector Byte 45) (b : Byte) :
    blockFunction rom (encode (.encb b)) =
      respond (encode (.encb b)) .ok
        (lanes3 0x00#8 (alpha rom (enc16 (b.setWidth 16)).c) (alpha rom (enc16 (b.setWidth 16)).d)) := by
  rw [blockFunction_of_fn2 _ _ (legal_encode _) (cmdFn_encode_encb b)]; simp [laneOut]

theorem blockFunction_encbd (rom : Vector Byte 45) (b : Byte) :
    blockFunction rom (encode (.encbd b)) =
      respond (encode (.encbd b)) .ok
        (lanes3 0x00#8 (laneOfDigit (enc16 (b.setWidth 16)).c) (laneOfDigit (enc16 (b.setWidth 16)).d)) := by
  rw [blockFunction_of_fn2 _ _ (legal_encode _) (cmdFn_encode_encbd b)]; simp [laneOut]

theorem blockFunction_dect (rom : Vector Byte 45) (l1 l2 l3 : Lane) :
    blockFunction rom (encode (.dect l1 l2 l3)) =
      respondWord (encode (.dect l1 l2 l3)) (dec3 (alphaInv rom l1) (alphaInv rom l2) (alphaInv rom l3)) := by
  rw [blockFunction_of_fn3 _ _ (legal_encode _) (cmdFn_encode_dect l1 l2 l3)]; simp [laneIn]

theorem blockFunction_dectd (rom : Vector Byte 45) (l1 l2 l3 : Lane) :
    blockFunction rom (encode (.dectd l1 l2 l3)) =
      respondWord (encode (.dectd l1 l2 l3)) (dec3 (digitOfLane l1) (digitOfLane l2) (digitOfLane l3)) := by
  rw [blockFunction_of_fn3 _ _ (legal_encode _) (cmdFn_encode_dectd l1 l2 l3)]; simp [laneIn]

theorem blockFunction_decp (rom : Vector Byte 45) (l1 l2 : Lane) :
    blockFunction rom (encode (.decp l1 l2)) =
      respondByte (encode (.decp l1 l2)) (dec3 (alphaInv rom l1) (alphaInv rom l2) (some fillerDigit)) := by
  rw [blockFunction_of_fn4 _ _ (legal_encode _) (cmdFn_encode_decp l1 l2)]; simp [laneIn]

theorem blockFunction_decpd (rom : Vector Byte 45) (l1 l2 : Lane) :
    blockFunction rom (encode (.decpd l1 l2)) =
      respondByte (encode (.decpd l1 l2)) (dec3 (digitOfLane l1) (digitOfLane l2) (some fillerDigit)) := by
  rw [blockFunction_of_fn4 _ _ (legal_encode _) (cmdFn_encode_decpd l1 l2)]; simp [laneIn]

/-! ### The two datapaths -/

/-- R123: the three outcomes of the decoder. -/
theorem dec3_some (c d e : Digit) :
    dec3 (some c) (some d) (some e) =
      if weightedSum c d e > 65535 then .error .invalidCode else .ok (BitVec.ofNat 16 (weightedSum c d e)) := rfl

theorem dec3_eq_invalidCharacter_iff (i1 i2 i3 : Option Digit) :
    dec3 i1 i2 i3 = .error .invalidCharacter ↔ i1 = none ∨ i2 = none ∨ i3 = none := by
  rcases i1 with _ | c <;> rcases i2 with _ | d <;> rcases i3 with _ | e <;> simp [dec3]
  split <;> simp

theorem enc16_c (w : Word) : (enc16 w).c.val = w.toNat % 45 := rfl
theorem enc16_d (w : Word) : (enc16 w).d.val = w.toNat / 45 % 45 := rfl
theorem enc16_e (w : Word) : (enc16 w).e.val = w.toNat / 45 / 45 := rfl

theorem weightedSum_enc16 (w : Word) : weightedSum (enc16 w).c (enc16 w).d (enc16 w).e = w.toNat := by
  simp only [weightedSum, enc16_c, enc16_d, enc16_e]; omega

theorem enc16_weightedSum (c d e : Digit) (h : weightedSum c d e ≤ 65535) :
    enc16 (BitVec.ofNat 16 (weightedSum c d e)) = { c := c, d := d, e := e } := by
  have hc := c.isLt; have hd := d.isLt
  have hw : (BitVec.ofNat 16 (weightedSum c d e)).toNat = weightedSum c d e := by
    rw [BitVec.toNat_ofNat]; exact Nat.mod_eq_of_lt (by omega)
  simp only [enc16, hw, Triple.mk.injEq, Fin.ext_iff]
  simp only [weightedSum]
  refine ⟨?_, ?_, ?_⟩ <;> omega

/-! ### Lanes and their indices -/

/-- R41: what `ALPHA_INV` finds is an index of the character. -/
theorem alpha_of_alphaInv {rom : Vector Byte 45} {ch : Lane} {i : Digit} (h : alphaInv rom ch = some i) :
    alpha rom i = ch := by
  have := List.find?_some h; simpa using this

/-- R41: NONE is found only where no index has the character. -/
theorem alphaInv_eq_none_iff (rom : Vector Byte 45) (ch : Lane) : alphaInv rom ch = none ↔ ∀ i, alpha rom i ≠ ch := by
  simp [alphaInv]

theorem digitOfLane_eq_some_iff (l : Lane) (i : Digit) : digitOfLane l = some i ↔ l.toNat = i.val := by
  unfold digitOfLane
  split
  · simp [Fin.ext_iff]
  · next h => simp only [reduceCtorEq, false_iff]; have := i.isLt; omega

theorem digitOfLane_eq_none_iff (l : Lane) : digitOfLane l = none ↔ 44 < l.toNat := by
  unfold digitOfLane; split <;> simp <;> omega

@[simp] theorem digitOfLane_laneOfDigit (i : Digit) : digitOfLane (laneOfDigit i) = some i := by
  rw [digitOfLane_eq_some_iff, laneOfDigit, BitVec.toNat_ofNat]; have := i.isLt; omega

end Sys2Proof.Machine
end

