-- ==== Sys2Proof/Tests/Slice0.lean ====
section
/-! SUPPORT. Small tests, their expected results from spec/95_test_vectors.md and the examples of the rules, and for every
statement with hypotheses a witness: concrete states and operands that meet them, clause by clause, at boundary values. -/

open Sys2Proof Sys2Proof.Machine

namespace Sys2Proof.Tests

/-! ### States -/

/-- Out of reset, empty and ready, with an idle host. -/
def ready : State :=
  { q := [], inReset := false, rom := alphabet, readyWait := 0, draw := 0, host := HostSide.fresh }

/-- Ready, at another place in its life: one command answered, one in flight, other free values to come. -/
def later : State :=
  { ready with draw := 7, host := { HostSide.fresh with issued := [0x00000000#32], received := [0x40000000#32] } }

/-- Ready, with a host that does these events. -/
def scripted (evs : List HostEvent) : State := { ready with host := { HostSide.fresh with script := evs } }

/-- Ready, with a host that holds a command and then does these events. -/
def holding (cmd : Cmd) (evs : List HostEvent) : State :=
  { ready with host := { HostSide.fresh with held := some cmd, script := evs } }

/-- Ready, with a host loop that has these commands to issue. -/
def looping (cmds : List Cmd) : State := { ready with host := { HostSide.fresh with program := cmds } }

/-- The state with a host that offers a command at the next edge. -/
def offeredTo (s : State) (cmd : Cmd) : State :=
  { s with
    host :=
      { s.host with
        script := [.edge { rst := false, cmdValid := true, cmdData := some cmd, rspReady := true }] } }

/-- The state with a host that takes no response at the next edge. -/
def stalling (s : State) : State :=
  { s with
    host :=
      { s.host with
        script := [.edge { rst := false, cmdValid := false, cmdData := none, rspReady := false }] } }

/-- Not ready for `n` cycles. -/
def busy (n : Nat) : State := { ready with readyWait := n }

/-- In reset. -/
def resetting : State := { ready with inReset := true }

/-- `Q` full of answers to all-zero command words. -/
def full : State :=
  { ready with
    q := List.replicate Config.depth { rsp := 0x40000000#32, wait := 0 }
    host := { HostSide.fresh with issued := List.replicate Config.depth 0x00000000#32 } }

/-- One response on offer, the answer to `ENCW 0x4142`. -/
def answering : State :=
  { ready with
    q := [{ rsp := 0x01424238#32, wait := 0 }]
    host := { HostSide.fresh with issued := [0x10004142#32] } }

/-- The host's edges: `rst`, the command offered if any, `rsp_ready`. -/
def edge (rst : Bool) (cmd : Option Cmd) (rspReady : Bool) : Edge :=
  { rst := rst, cmdValid := cmd.isSome, cmdData := cmd, rspReady := rspReady }

/-- The response a command gets on the state `ready`. -/
def answerOf (i : Instr) : List Rsp :=
  match exec i ready with
  | .next s => s.q.map InFlight.rsp
  | _ => []

/-- The response a command word gets on the state `ready`. -/
def answerOfWord (cmd : Cmd) : List Rsp :=
  match runCommand cmd ready with
  | .next s => s.q.map InFlight.rsp
  | _ => []

/-! ### WellFormed: each check refuses an operand that does not fit -/

theorem test_wf_encw : AsmLine.wellFormed (.encw 65536) = false := by decide
theorem test_wf_encb : AsmLine.wellFormed (.encb 256) = false := by decide
theorem test_wf_dect : ∀ line ∈ [AsmLine.dect 256 0 0, .dect 0 256 0, .dect 0 0 256], line.wellFormed = false := by decide
theorem test_wf_dectText :
    ∀ line ∈ [AsmLine.dectText [0x42, 0x42], .dectText [0x42, 0x42, 0x38, 0x38], .dectText [0x42, 0x130, 0x38]],
      line.wellFormed = false := by decide
theorem test_wf_decp : ∀ line ∈ [AsmLine.decp 256 0, .decp 0 256], line.wellFormed = false := by decide
theorem test_wf_decpText :
    ∀ line ∈ [AsmLine.decpText [0x58], .decpText [0x58, 0x30, 0x30], .decpText [0x58, 0x130]],
      line.wellFormed = false := by decide
theorem test_wf_encwd : AsmLine.wellFormed (.encwd 65536) = false := by decide
theorem test_wf_encbd : AsmLine.wellFormed (.encbd 256) = false := by decide
theorem test_wf_dectd : ∀ line ∈ [AsmLine.dectd 256 0 0, .dectd 0 256 0, .dectd 0 0 256], line.wellFormed = false := by
  decide
theorem test_wf_decpd : ∀ line ∈ [AsmLine.decpd 256 0, .decpd 0 256], line.wellFormed = false := by decide
theorem test_wf_word : AsmLine.wellFormed (.word 4294967296) = false := by decide
theorem test_wf_encs : AsmLine.wellFormed (.encs [0x41, 256]) = false := by decide
theorem test_wf_accepts :
    ∀ line ∈ [AsmLine.encw 65535, .encb 255, .dect 255 255 255, .dectText [0x42, 0x42, 0x38], .decp 255 255,
        .decpText [0x58, 0x30], .encwd 65535, .encbd 255, .dectd 255 255 255, .decpd 255 255, .word 4294967295,
        .encs [255], .decs [0x130]], line.wellFormed = true := by decide

/-! ### Decode: words written bit by bit from the patterns of R61 -/

theorem test_decode_encw : decode 0b00010000000000001000000000000001#32 = .ok (.encw 0x8001#16) := by decide
theorem test_decode_encb : decode 0b00100000000000000000000010000001#32 = .ok (.encb 0x81#8) := by decide
theorem test_decode_dect :
    decode 0b00110000100000010100001000100100#32 = .ok (.dect 0x81#8 0x42#8 0x24#8) := by decide
theorem test_decode_decp : decode 0b01000000000000001000000101000010#32 = .ok (.decp 0x81#8 0x42#8) := by decide
theorem test_decode_encwd : decode 0b10010000000000001000000000000001#32 = .ok (.encwd 0x8001#16) := by decide
theorem test_decode_encbd : decode 0b10100000000000000000000010000001#32 = .ok (.encbd 0x81#8) := by decide
theorem test_decode_dectd :
    decode 0b10110000100000010100001000100100#32 = .ok (.dectd 0x81#8 0x42#8 0x24#8) := by decide
theorem test_decode_decpd : decode 0b11000000000000001000000101000010#32 = .ok (.decpd 0x81#8 0x42#8) := by decide
theorem test_decode_reservedBits : decode 0x3F5F5F5F#32 = .error .reservedBits := by decide
theorem test_decode_unassignedOp :
    decode 0x00000000#32 = .error .unassignedOp ∧ decode 0x50000000#32 = .error .unassignedOp ∧
    decode 0x60000000#32 = .error .unassignedOp ∧ decode 0x70000000#32 = .error .unassignedOp ∧
    decode 0x80000000#32 = .error .unassignedOp ∧ decode 0xD0000000#32 = .error .unassignedOp ∧
    decode 0xE0000000#32 = .error .unassignedOp ∧ decode 0xF0FFFFFF#32 = .error .unassignedOp := by decide
theorem test_decode_operandBits :
    decode 0x10010000#32 = .error .operandBits ∧ decode 0x20000100#32 = .error .operandBits ∧
    decode 0xA0800000#32 = .error .operandBits ∧ decode 0x40010000#32 = .error .operandBits ∧
    decode 0x90800000#32 = .error .operandBits ∧ decode 0xC0FF0000#32 = .error .operandBits := by decide
theorem test_decodeTableWord :
    decodeTableWord 32 0x10004142 = some (.encw 0x4142#16) ∧ decodeTableWord 32 0x11000000 = none ∧
    decodeTableWord 8 0 = none := by decide

/-! ### The commands, with the responses of 95_test_vectors.md -/

theorem test_encw_carry : answerOf (.encw 0x07E9#16) = [0x01303031#32] := by decide
theorem test_encw_lane_order : answerOf (.encw 0xFD1F#16) = [0x013A3A56#32] := by decide
theorem test_encwd_carry : answerOf (.encwd 0x002D#16) = [0x09000100#32] := by decide
theorem test_encwd_top : answerOf (.encwd 0xFFFF#16) = [0x090F1020#32] := by decide
theorem test_encb_order : answerOf (.encb 0x41#8) = [0x02004B31#32] := by decide
theorem test_encb_top : answerOf (.encb 0xFF#8) = [0x02005535#32] := by decide
theorem test_encbd_order : answerOf (.encbd 0xE8#8) = [0x0A000705#32] := by decide
theorem test_encbd_carry : answerOf (.encbd 0x2D#8) = [0x0A000001#32] := by decide
theorem test_dect_top : answerOf (.dect 0x58#8 0x30#8 0x57#8) = [0x0300FD41#32] := by decide
theorem test_dect_membership_first : answerOf (.dect 0x5F#8 0x3A#8 0x3A#8) = [0x23000000#32] := by decide
theorem test_dectd_smallest_illegal : answerOf (.dectd 16#8 16#8 32#8) = [0x3B000000#32] := by decide
theorem test_dectd_order : answerOf (.dectd 11#8 11#8 8#8) = [0x0B004142#32] := by decide
theorem test_decp_narrows : answerOf (.decp 0x3A#8 0x3A#8) = [0x040000E8#32] := by decide
theorem test_decp_order : answerOf (.decp 0x58#8 0x30#8) = [0x04000021#32] := by decide
theorem test_decpd_narrows : answerOf (.decpd 31#8 5#8) = [0x0C000000#32] := by decide
theorem test_decpd_first_past_digit : answerOf (.decpd 0#8 45#8) = [0x2C000000#32] := by decide
theorem test_illegal_wins : answerOfWord 0x3F5F5F5F#32 = [0x43000000#32] := by decide
theorem test_illegal_zero : answerOfWord 0x00000000#32 = [0x40000000#32] := by decide

/-! ### The alphabet, the streams and the assembler -/

theorem test_alphaInv :
    alphaInv alphabet 0x30#8 = some 0 ∧ alphaInv alphabet 0x39#8 = some 9 ∧ alphaInv alphabet 0x41#8 = some 10 ∧
    alphaInv alphabet 0x5A#8 = some 35 ∧ alphaInv alphabet 0x20#8 = some 36 ∧ alphaInv alphabet 0x3A#8 = some 44 ∧
    alphaInv alphabet 0x2C#8 = none ∧ alphaInv alphabet 0x3B#8 = none ∧ alphaInv alphabet 0x40#8 = none ∧
    alphaInv alphabet 0x61#8 = none ∧ alphaInv alphabet 0x5F#8 = none ∧ alphaInv alphabet 0x00#8 = none ∧
    alphaInv alphabet 0xFF#8 = none := by decide
theorem test_encs_Hello :
    encs alphabet [0x48, 0x65, 0x6C, 0x6C, 0x6F, 0x21, 0x21] =
      [0x25, 0x36, 0x39, 0x20, 0x56, 0x44, 0x39, 0x32, 0x45, 0x58, 0x30] := by decide
theorem test_decs_Hello :
    decs alphabet [0x25, 0x36, 0x39, 0x20, 0x56, 0x44, 0x39, 0x32, 0x45, 0x58, 0x30] =
      .bytes [0x48, 0x65, 0x6C, 0x6C, 0x6F, 0x21, 0x21] := by decide
theorem test_decs_narrows : decs alphabet [0x42, 0x42, 0x38, 0x3A, 0x3A] = .bytes [0x41, 0x42, 0xE8] := by decide
theorem test_decs_one_character : decs alphabet [0x31] = .error .invalidLength := by decide
theorem test_decs_wide_character : decs alphabet (decsLanes [0x130, 0x30]) = .error .invalidCharacter := by decide
theorem test_assemble :
    assemble (.encw 0x4142) = some [0x10004142#32] ∧ assemble (.encb 0x21) = some [0x20000021#32] ∧
    assemble (.dectText [0x42, 0x42, 0x38]) = some [0x30424238#32] ∧
    assemble (.decpText [0x58, 0x30]) = some [0x40005830#32] ∧ assemble (.encwd 65535) = some [0x9000FFFF#32] ∧
    assemble (.encbd 255) = some [0xA00000FF#32] ∧ assemble (.dectd 15 16 32) = some [0xB00F1020#32] ∧
    assemble (.decpd 30 5) = some [0xC0001E05#32] ∧ assemble (.word 0) = some [0x00000000#32] ∧
    assemble (.encs [0x41, 0x42]) = some [0x10004142#32] ∧ assemble (.decs [0x58, 0x130]) = some [0x40005800#32] := by
  decide

/-! ### One step -/

/-- The command placed by `withFetchWord` is run by the first step after reset. -/
theorem test_step_runs_the_word :
    (match step (State.reset.withFetchWord 32 0x10004142) with
      | .next s => s.q.map InFlight.rsp
      | _ => []) = [0x01424238#32] := by decide
theorem test_step_delivers :
    (match step answering with
      | .next s => (s.q.map InFlight.rsp, s.host.received)
      | _ => ([], [])) = ([], [0x01424238#32]) := by decide

theorem test_step_reset :
    (match step { answering with host := { answering.host with script := [.edge (edge true none true)] } } with
      | .next s => (s.q.map InFlight.rsp, s.inReset, s.host.received)
      | _ => ([], false, [])) = ([], true, []) := by decide
theorem test_step_withdrawn :
    (match step (holding 0x10000000#32 [.edge (edge false none true)]) with
      | .refused r => some r
      | _ => none) = some .commandWithdrawn := by decide

/-! ### Witnesses: the states the hypotheses speak of -/

theorem witness_ready : ready.Ready := ⟨rfl, by decide, rfl⟩
theorem witness_later : later.Ready := ⟨rfl, by decide, rfl⟩
theorem witness_rom : ready.rom = alphabet ∧ later.rom = alphabet := ⟨rfl, rfl⟩
theorem witness_not_ready : ¬ resetting.Ready ∧ ¬ (busy 1).Ready ∧ ¬ full.Ready :=
  ⟨fun h => Bool.noConfusion h.released, fun h => absurd h.ready (by decide),
    fun h => absurd h.room (by simp [full])⟩
theorem witness_inv : ready.Inv :=
  ⟨Nat.zero_le _, rfl, nofun, rfl, nofun⟩
theorem witness_inv_in_flight : answering.Inv :=
  ⟨by decide, rfl, nofun, by decide, nofun⟩

theorem looping_inv (cmds : List Cmd) : (looping cmds).Inv := ⟨Nat.zero_le _, rfl, nofun, rfl, nofun⟩

/-! ### Witnesses: encoding -/

theorem witness_EncodeOfDecodeIsTheWord : decode 0xC000FFFF#32 = .ok (.decpd 0xFF#8 0xFF#8) := by decide
theorem witness_LegalWordsMatchExactlyOneRow :
    (∃ r ∈ opcodeTable, r.matches 0x1000FFFF#32 = true) ∧ decode 0x1000FFFF#32 = .ok (.encw 0xFFFF#16) := by decide
theorem witness_IllegalWordsAreAnsweredIllegalCommand :
    ready.Ready ∧ legal 0x11000000#32 = false ∧ legal 0x00000000#32 = false ∧ legal 0x10010000#32 = false ∧
      legal 0xA0000100#32 = false := ⟨witness_ready, by decide⟩

/-! ### Witnesses: the commands -/

theorem witness_EncwAnswersThreeCharacters :
    ready.Ready ∧ ready.rom = alphabet ∧ 0x1000FFFF#32 &&& 0xFFFF0000#32 = 0x10000000#32 ∧
      (15 : Digit).val = (0xFFFF#16).toNat % 45 ∧ (16 : Digit).val = (0xFFFF#16).toNat / 45 % 45 ∧
      (32 : Digit).val = (0xFFFF#16).toNat / 45 / 45 ∧
      (0x10010000#32).extractLsb' 28 4 = 0x1#4 ∧ (0x10010000#32).extractLsb' 16 12 ≠ 0#12 :=
  ⟨witness_ready, rfl, by decide⟩
theorem witness_EncwdAnswersThreeDigits :
    ready.Ready ∧ 0x9000FFFF#32 &&& 0xFFFF0000#32 = 0x90000000#32 ∧
      (0x90010000#32).extractLsb' 28 4 = 0x9#4 ∧ (0x90010000#32).extractLsb' 16 12 ≠ 0#12 := ⟨witness_ready, by decide⟩
theorem witness_EncbAnswersTwoCharacters :
    ready.Ready ∧ ready.rom = alphabet ∧ 0x200000FF#32 &&& 0xFFFFFF00#32 = 0x20000000#32 ∧
      (30 : Digit).val = (0xFF#8).toNat % 45 ∧ (5 : Digit).val = (0xFF#8).toNat / 45 ∧
      (0x20000100#32).extractLsb' 28 4 = 0x2#4 ∧ (0x20000100#32).extractLsb' 8 20 ≠ 0#20 :=
  ⟨witness_ready, rfl, by decide⟩
theorem witness_EncbdAnswersTwoDigits :
    ready.Ready ∧ 0xA00000FF#32 &&& 0xFFFFFF00#32 = 0xA0000000#32 ∧
      (0xA0000100#32).extractLsb' 28 4 = 0xA#4 ∧ (0xA0000100#32).extractLsb' 8 20 ≠ 0#20 := ⟨witness_ready, by decide⟩
theorem witness_DectAnswersTheWordOrItsError :
    ready.Ready ∧ ready.rom = alphabet ∧ 0x30FFFFFF#32 &&& 0xFF000000#32 = 0x30000000#32 ∧
      (∃ l ∈ [0x30#8, 0x30#8, 0x61#8], ∀ i : Digit, alphabet[i] ≠ l) ∧
      (alphabet[(16 : Digit)] = 0x47#8 ∧ alphabet[(32 : Digit)] = 0x57#8 ∧ 65535 < 16 + 45 * 16 + 2025 * 32) ∧
      (alphabet[(15 : Digit)] = 0x46#8 ∧ 15 + 45 * 16 + 2025 * 32 ≤ 65535) ∧
      (0x31000000#32).extractLsb' 28 4 = 0x3#4 ∧ (0x31000000#32).extractLsb' 24 4 ≠ 0#4 :=
  ⟨witness_ready, rfl, by decide⟩
theorem witness_DectdAnswersTheWordOrItsError :
    ready.Ready ∧ 0xB0FFFFFF#32 &&& 0xFF000000#32 = 0xB0000000#32 ∧
      (∃ l ∈ [0#8, 0#8, 45#8], 44 < l.toNat) ∧
      ((16#8).toNat ≤ 44 ∧ (32#8).toNat ≤ 44 ∧ 65535 < (16#8).toNat + 45 * (16#8).toNat + 2025 * (32#8).toNat) ∧
      ((15#8).toNat ≤ 44 ∧ (15#8).toNat + 45 * (16#8).toNat + 2025 * (32#8).toNat ≤ 65535) ∧
      (0xB1000000#32).extractLsb' 28 4 = 0xB#4 ∧ (0xB1000000#32).extractLsb' 24 4 ≠ 0#4 := ⟨witness_ready, by decide⟩
theorem witness_DecpAnswersTheByteOrItsError :
    ready.Ready ∧ ready.rom = alphabet ∧ 0x4000FFFF#32 &&& 0xFFFF0000#32 = 0x40000000#32 ∧
      (∃ l ∈ [0x30#8, 0x5F#8], ∀ i : Digit, alphabet[i] ≠ l) ∧
      (alphabet[(44 : Digit)] = 0x3A#8 ∧ alphabet[(0 : Digit)] = 0x30#8) ∧
      (0x40010000#32).extractLsb' 28 4 = 0x4#4 ∧ (0x40010000#32).extractLsb' 16 12 ≠ 0#12 :=
  ⟨witness_ready, rfl, by decide⟩
theorem witness_DecpdAnswersTheByteOrItsError :
    ready.Ready ∧ 0xC000FFFF#32 &&& 0xFFFF0000#32 = 0xC0000000#32 ∧
      (∃ l ∈ [0#8, 45#8], 44 < l.toNat) ∧ (44#8).toNat ≤ 44 ∧
      (0xC0010000#32).extractLsb' 28 4 = 0xC#4 ∧ (0xC0010000#32).extractLsb' 16 12 ≠ 0#12 := ⟨witness_ready, by decide⟩
theorem witness_CommandsWaitWhileTheBlockIsNotReady : ¬ resetting.Ready ∧ ¬ (busy 1).Ready ∧ ¬ full.Ready :=
  witness_not_ready
theorem witness_CommandsLeaveTheRestUnchanged :
    (∃ s', exec (.encw 0#16) ready = .next s') ∧ ∃ s', exec (.encw 0#16) (busy 1) = .next s' := ⟨⟨_, rfl⟩, ⟨_, rfl⟩⟩

/-! ### Witnesses: the block function and its laws -/

theorem witness_EveryCommandIsAnsweredByTheBlockFunction : ready.Ready := witness_ready
theorem witness_ResponsesEchoTheirOp : ready.Ready := witness_ready
theorem witness_ErrorsComeInTheirPriority :
    ready.Ready ∧ ready.rom = alphabet ∧ legal 0x3F5F5F5F#32 = false ∧
      (legal 0x10000000#32 = true ∧ (0x10000000#32).extractLsb' 28 3 = 1#3) ∧
      (legal 0xA0000000#32 = true ∧ (0xA0000000#32).extractLsb' 28 3 = 2#3) ∧
      (legal 0x305F3A3A#32 = true ∧ (0x305F3A3A#32).extractLsb' 28 3 = 3#3 ∧
        (∃ l ∈ [laneHi 0x305F3A3A#32], laneHasNone ((0x305F3A3A#32).getLsbD 31) l)) ∧
      (laneHasIndex ((0xB0101020#32).getLsbD 31) (laneHi 0xB0101020#32) 16 ∧
        laneHasIndex ((0xB0101020#32).getLsbD 31) (laneMid 0xB0101020#32) 16 ∧
        laneHasIndex ((0xB0101020#32).getLsbD 31) (laneLo 0xB0101020#32) 32 ∧ legal 0xB0101020#32 = true) ∧
      (laneHasIndex ((0x30464757#32).getLsbD 31) (laneHi 0x30464757#32) 15 ∧
        laneHasIndex ((0x30464757#32).getLsbD 31) (laneMid 0x30464757#32) 16 ∧
        laneHasIndex ((0x30464757#32).getLsbD 31) (laneLo 0x30464757#32) 32) ∧
      (legal 0x40003A5F#32 = true ∧ (0x40003A5F#32).extractLsb' 28 3 = 4#3 ∧
        laneHasNone ((0x40003A5F#32).getLsbD 31) (laneLo 0x40003A5F#32) ∧
        laneHasIndex ((0x40003A3A#32).getLsbD 31) (laneMid 0x40003A3A#32) 44 ∧
        laneHasIndex ((0x40003A3A#32).getLsbD 31) (laneLo 0x40003A3A#32) 44) := by
  refine ⟨witness_ready, rfl, ?_⟩
  simp only [laneHasIndex, laneHasNone]
  decide
theorem witness_EncodersAlwaysAnswerOk : ready.Ready ∧ ∃ w, Instr.encw 0xFFFF#16 = .encw w := ⟨witness_ready, _, rfl⟩
theorem witness_ResponsesDependOnlyOnTheirCommand : ready.Ready ∧ later.Ready ∧ ready.rom = later.rom :=
  ⟨witness_ready, witness_later, rfl⟩

/-! ### Witnesses: the datapaths and the alphabet -/

theorem witness_EncoderTripleLaws :
    (15 : Digit).val + 45 * (16 : Digit).val + 45 * 45 * (32 : Digit).val = (0xFFFF#16).toNat ∧
      (enc16 64800#16).e.val = 32 := by decide
theorem witness_DecoderLaws :
    dec3 (some 15) (some 16) (some 32) = .ok 0xFFFF#16 ∧ dec3 (some 44) (some 44) (some 44) = .error .invalidCode ∧
      (31 : Digit).val ≤ 31 ∧ (32 : Digit).val = 32 ∧ 33 ≤ (33 : Digit).val := by decide
theorem witness_PairEncoderDigits : ready.Ready ∧ ready.rom = alphabet := ⟨witness_ready, rfl⟩
theorem witness_PairDecoderNarrowsAndNeverFailsTheRange :
    ready.Ready ∧ ready.rom = alphabet ∧ 255 < (31 : Digit).val + 45 * (5 : Digit).val := ⟨witness_ready, rfl, by decide⟩
theorem witness_GroupsMakeTheRoundTrip :
    ready.Ready ∧ ready.rom = alphabet ∧ 255 < (31 : Digit).val + 45 * (5 : Digit).val ∧
      0x00#8 = BitVec.ofNat 8 ((31 : Digit).val + 45 * (5 : Digit).val) := ⟨witness_ready, rfl, by decide⟩
theorem witness_RomHoldsTheAlphabet : (9 : Digit).val ≤ 9 ∧ 10 ≤ (10 : Digit).val ∧ (35 : Digit).val ≤ 35 := by decide
theorem witness_AlphabetInverseIsTheClosedForm :
    (0x30 ≤ (0x39#8).toNat ∧ (0x39#8).toNat ≤ 0x39) ∧ (0x41 ≤ (0x5A#8).toNat ∧ (0x5A#8).toNat ≤ 0x5A) ∧
      ¬ (0x30 ≤ (0x40#8).toNat ∧ (0x40#8).toNat ≤ 0x39) ∧ ¬ (0x41 ≤ (0x40#8).toNat ∧ (0x40#8).toNat ≤ 0x5A) ∧
      0x40#8 ∉ [0x20#8, 0x24#8, 0x25#8, 0x2A#8, 0x2B#8, 0x2D#8, 0x2E#8, 0x2F#8, 0x3A#8] := by decide
theorem witness_AlphabetLaws :
    alphabet[(44 : Digit)] = alphabet[(44 : Digit)] ∧ alphaInv alphabet 0x3A#8 = some 44 := by decide
theorem witness_NothingWritesTheRomAndEncwReadsIt :
    (∃ s', step (scripted [.edge (edge true none false)]) = .next s') ∧ ready.Ready := ⟨⟨_, rfl⟩, witness_ready⟩

/-! ### Witnesses: the channels -/

theorem witness_StepRunsTheDecodedCommand :
    (scripted [.edge (edge false (some 0x10004142#32) true)]).host.nextEvent =
        .edge { rst := false, cmdValid := true, cmdData := some 0x10004142#32, rspReady := true } ∧
      (scripted [.edge (edge false (some 0x10004142#32) true)]).host.held = none ∧
      decode 0x10004142#32 = .ok (.encw 0x4142#16) ∧
      ∃ t u, exec (.encw 0x4142#16)
          (scripted [.edge (edge false (some 0x10004142#32) true)]).advance.resetRelease = .next t ∧
        deliver true t = .next u :=
  ⟨rfl, rfl, by decide, _, _, rfl, rfl⟩
/-- The same with the command held from an earlier edge, as the host loop offers it. -/
theorem witness_StepRunsTheDecodedCommand_held :
    (holding 0x10004142#32 []).host.nextEvent =
      .edge { rst := false, cmdValid := true, cmdData := some 0x10004142#32, rspReady := true } := rfl
theorem witness_ResetStateIsEmptyWithItsWait : 0 < (busy 1).readyWait := by decide
theorem witness_ResetEdgeEmptiesTheBlock :
    ({ answering with host := { answering.host with script := [.edge (edge true (some 0x00000000#32) true)] } } :
        State).host.nextEvent = .edge (edge true (some 0x00000000#32) true) ∧
      (edge true (some 0x00000000#32) true).rst = true ∧
      ((edge true (some 0x00000000#32) true).cmdValid = true → (edge true (some 0x00000000#32) true).cmdData ≠ none) :=
  ⟨rfl, rfl, fun _ => nofun⟩
theorem witness_NotReadyForReadyAfterResetCycles :
    ∃ s1 s2, (scripted [.edge (edge true none false)]).host.nextEvent = .edge (edge true none false) ∧
      step (scripted [.edge (edge true none false)]) = .next s1 ∧ runEdges 1 s1 = .next s2 := ⟨_, _, rfl, rfl, rfl⟩
theorem witness_CmdReadyIsLowWhenFullOrInReset : full.q.length = Config.depth ∧ ready.q.length < Config.depth :=
  ⟨List.length_replicate, by decide⟩
/-- A host that breaks each of its duties in turn. -/
theorem witness_CommandsAreAcceptedAtTheHandshake_refused :
    (scripted [.edge { rst := false, cmdValid := true, cmdData := none, rspReady := true }]).host.nextEvent =
        .edge { rst := false, cmdValid := true, cmdData := none, rspReady := true } ∧
      (holding 0x10000000#32 [.edge (edge false none true)]).host.nextEvent = .edge (edge false none true) ∧
      (holding 0x10000000#32 [.edge (edge false (some 0x10000001#32) true)]).host.nextEvent =
        .edge (edge false (some 0x10000001#32) true) ∧ 0x10000001#32 ≠ 0x10000000#32 :=
  ⟨rfl, rfl, rfl, by decide⟩
/-- No command offered, a command accepted, a command that waits. -/
theorem witness_CommandsAreAcceptedAtTheHandshake :
    ((scripted [.edge (edge false none true)]).host.nextEvent = .edge (edge false none true) ∧
        ∃ s', step (scripted [.edge (edge false none true)]) = .next s') ∧
      ((scripted [.edge (edge false (some 0x10000000#32) true)]).host.nextEvent =
          .edge (edge false (some 0x10000000#32) true) ∧
        (∃ s', step (scripted [.edge (edge false (some 0x10000000#32) true)]) = .next s') ∧
        (scripted [.edge (edge false (some 0x10000000#32) true)]).cmdReady false = true) ∧
      ((offeredTo (busy 1) 0x10000000#32).host.nextEvent = .edge (edge false (some 0x10000000#32) true) ∧
        (∃ s', step (offeredTo (busy 1) 0x10000000#32) = .next s') ∧
        (offeredTo (busy 1) 0x10000000#32).cmdReady false = false) :=
  ⟨⟨rfl, _, rfl⟩, ⟨rfl, ⟨_, rfl⟩, by decide⟩, rfl, ⟨_, rfl⟩, by decide⟩
/-- A response taken, a response that stays on offer, and no response on offer. -/
theorem witness_ResponsesStayOnOfferUntilDelivered :
    answering.rspValid false = true ∧
      (answering.host.nextEvent = .edge idleEdge ∧ ∃ s', step answering = .next s') ∧
      ((stalling answering).host.nextEvent = .edge (edge false none false) ∧
        (stalling answering).rspValid false = true ∧ ∃ s', step (stalling answering) = .next s') ∧
      ready.host.nextEvent = .edge idleEdge ∧ ready.rspValid false = false ∧ ∃ s', step ready = .next s' :=
  ⟨by decide, ⟨rfl, _, rfl⟩, ⟨rfl, by decide, _, rfl⟩, rfl, by decide, _, rfl⟩
theorem witness_NoResponseBeforeLatency :
    (looping [0x10004142#32]).Inv ∧
      ∃ s1 : State, step (looping [0x10004142#32]) = .next s1 ∧
        s1.host.issued = (looping [0x10004142#32]).host.issued ++ [0x10004142#32] ∧ 0 < Config.latency ∧
        runEdges 0 s1 = .next s1 :=
  ⟨looping_inv _, _, rfl, rfl, by decide, rfl⟩
theorem witness_EveryStepKeepsTheInvariant : answering.Inv ∧ ∃ s', step answering = .next s' :=
  ⟨witness_inv_in_flight, _, rfl⟩
theorem witness_NoStepShowsAFaultyBlock : answering.Inv := witness_inv_in_flight
/-- The four observations of R208, one state for each. -/
theorem witness_FaultyBlocksAreNamed :
    (∃ rest, answering.q = { rsp := 0x01424238#32, wait := 0 } :: rest) ∧
      (some 0x01424239#32 = some 0x01424239#32 ∧ 0x01424239#32 ≠ 0x01424238#32) ∧
      answering.host.seen = none ∧
      ({ answering with host := HostSide.fresh } : State).host.issued.length ≤ HostSide.fresh.received.length ∧
      answering.host.issued[answering.host.received.length]? = some 0x10004142#32 ∧
      (0x11424238#32).extractLsb' 28 4 ∉ [0x0#4, 0x2#4, 0x3#4, 0x4#4] ∧
      (0xF1424238#32).extractLsb' 28 4 ∉ [0x0#4, 0x2#4, 0x3#4, 0x4#4] ∧
      (0x02424238#32).extractLsb' 28 4 ∈ [0x0#4, 0x2#4, 0x3#4, 0x4#4] ∧
      (0x02424238#32).extractLsb' 24 4 ≠ (0x10004142#32).extractLsb' 28 4 := ⟨⟨[], rfl⟩, by decide⟩
theorem witness_EveryEdgeRefinesTheActionsOfTheSpec :
    (∃ s', step answering = .next s') ∧ ∃ s', step (scripted [.edge (edge true none false)]) = .next s' :=
  ⟨⟨_, rfl⟩, ⟨_, rfl⟩⟩
theorem witness_ResponsesComeInAcceptanceOrder :
    answering.Inv ∧ ∃ s', runEdges 1 answering = .next s' ∧ s'.q = [] := ⟨witness_inv_in_flight, _, rfl, rfl⟩
theorem witness_WaitsEndWithNoReset :
    ((∀ ev ∈ (busy 1).host.script.take (busy 1).readyWait, ev.noReset = true) ∧
        ∃ s', runEdges (busy 1).readyWait (busy 1) = .next s' ∧ s'.q.length < Config.depth) ∧
      ((∃ rest, answering.q = { rsp := 0x01424238#32, wait := 0 } :: rest) ∧
        (∀ ev ∈ answering.host.script.take 1, ev.takes = true) ∧ ∃ s', runEdges 1 answering = .next s') :=
  ⟨⟨nofun, _, rfl, by decide⟩, ⟨[], rfl⟩, nofun, _, rfl⟩
theorem witness_TheHostLoopDrains :
    (looping [0x10004142#32, 0x20000021#32]).Inv ∧ (looping [0x10004142#32, 0x20000021#32]).host.script = [] ∧
      (holding 0x10004142#32 []).Inv ∧ (holding 0x10004142#32 []).host.script = [] :=
  ⟨looping_inv _, rfl, ⟨Nat.zero_le _, rfl, nofun, rfl, nofun⟩, rfl⟩
theorem witness_StoppedClockIsRefused : (scripted [.clockStop]).host.nextEvent = .clockStop := rfl

/-! ### Witnesses: the host's streams -/

theorem witness_EncsIssuesItsGroupsInOrder :
    [0x41#8, 0x42#8][2 * 0]? = some 0x41#8 ∧ [0x41#8, 0x42#8][2 * 0 + 1]? = some 0x42#8 ∧
      [0x41#8, 0x42#8, 0x21#8].length % 2 = 1 ∧ [0x41#8, 0x42#8, 0x21#8].getLast? = some 0x21#8 := by decide
theorem witness_WideCharactersAreNeverCut : 255 < 256 ∧ 256 ≤ 256 ∧ 256 ≤ 0x130 := by decide
theorem witness_DecsIssuesItsGroupsInOrder :
    [0x42#8, 0x42#8, 0x38#8][3 * 0]? = some 0x42#8 ∧ [0x42#8, 0x42#8, 0x38#8][3 * 0 + 1]? = some 0x42#8 ∧
      [0x42#8, 0x42#8, 0x38#8][3 * 0 + 2]? = some 0x38#8 ∧ [0x58#8, 0x30#8].length % 3 = 2 ∧
      [0x58#8, 0x30#8][2 - 2]? = some 0x58#8 ∧ [0x58#8, 0x30#8][2 - 1]? = some 0x30#8 := by decide
theorem witness_DecsOutputsTheBytesOfItsGroups :
    (∀ i ∈ decsCommands [0x42#8, 0x42#8, 0x38#8, 0x3A#8, 0x3A#8],
        (blockFunction alphabet (encode i)).extractLsb' 28 4 = 0x0#4) ∧
      [0x42#8, 0x42#8, 0x38#8, 0x3A#8, 0x3A#8].length % 3 ≠ 1 := by
  simp only [decsCommands, List.forall_mem_cons, List.not_mem_nil, false_implies, implies_true]
  decide
theorem witness_DecsReportsTheFirstError :
    (decsCommands [0x42#8, 0x42#8, 0x38#8, 0x5F#8, 0x61#8] =
        [.dect 0x42#8 0x42#8 0x38#8] ++ .decp 0x5F#8 0x61#8 :: [] ∧
      (blockFunction alphabet (encode (.dect 0x42#8 0x42#8 0x38#8))).extractLsb' 28 4 = 0x0#4 ∧
      (blockFunction alphabet (encode (.decp 0x5F#8 0x61#8))).extractLsb' 28 4 = 0x2#4) ∧
    (decsCommands [0x3A#8, 0x3A#8, 0x3A#8] = [] ++ .dect 0x3A#8 0x3A#8 0x3A#8 :: [] ∧
      (blockFunction alphabet (encode (.dect 0x3A#8 0x3A#8 0x3A#8))).extractLsb' 28 4 = 0x3#4) ∧
    (decsCommands [0x31#8] = [] ∧ [0x31#8].length % 3 = 1) := by decide
theorem witness_StoppingEarlyGivesTheSameResult :
    ∃ r ∈ [0x33000000#32, 0x03004142#32].take 1, r.extractLsb' 28 4 ≠ 0x0#4 := ⟨0x33000000#32, by decide⟩
/-- A canonical trailing pair ("U5") and one that is not ("V5"). -/
theorem witness_StreamsMakeTheRoundTrip :
    decs alphabet [0x55#8, 0x35#8] = .bytes [0xFF#8] ∧ decs alphabet [0x56#8, 0x35#8] = .bytes [0x00#8] ∧
      [0x55#8, 0x35#8] = [] ++ [alphabet[(30 : Digit)], alphabet[(5 : Digit)]] ∧ ([] : List Lane).length % 3 = 0 := by
  decide
theorem witness_StreamsRunOnTheBlock :
    ∀ prog ∈ [programOf (encsCommands [0x41#8, 0x42#8, 0x21#8]), programOf (decsCommands [0x5F#8, 0x61#8])],
      (looping prog).Inv ∧ (looping prog).host.script = [] ∧ (looping prog).host.held = none ∧
        (looping prog).host.issued = [] ∧ (looping prog).host.received = [] ∧ (looping prog).q = [] ∧
        (looping prog).host.program = prog :=
  fun prog _ => ⟨looping_inv prog, rfl, rfl, rfl, rfl, rfl, rfl⟩
theorem witness_TheAssemblerRefusesWhatDoesNotFit :
    65535 ≤ 65535 ∧ 255 ≤ 255 ∧ 4294967295 < 2 ^ 32 ∧
      (∃ cmds, assemble (.decs [0x58, 0x30]) = some cmds) ∧ ∀ v, AsmLine.decs [0x58, 0x30] ≠ .word v :=
  ⟨by decide, by decide, by decide, ⟨_, rfl⟩, nofun⟩

end Sys2Proof.Tests
end

section
/-! PROOFS. The decoder and the block function, as the channels use them: a command word that is offered is answered
with the block function of R140, whatever word it is. -/

namespace Sys2Proof

/-- R60: a command word is the sum of its five fields. -/
theorem toNat_eq_fields (cmd : Cmd) :
    cmd.toNat = (cmdOp cmd).toNat * 2 ^ 28 + (cmdRsv cmd).toNat * 2 ^ 24 + (laneHi cmd).toNat * 2 ^ 16 +
      (laneMid cmd).toNat * 2 ^ 8 + (laneLo cmd).toNat := by
  rw [cmdOp_toNat, cmdRsv_toNat, laneHi_toNat, laneMid_toNat, laneLo_toNat]
  have := cmd.isLt
  omega

theorem opndWord_toNat_eq_lanes (cmd : Cmd) :
    (opndWord cmd).toNat = (laneMid cmd).toNat * 2 ^ 8 + (laneLo cmd).toNat := by
  rw [opndWord_toNat, laneMid_toNat, laneLo_toNat]
  omega

theorem opndByte_eq_laneLo (cmd : Cmd) : opndByte cmd = laneLo cmd := rfl

/-- R61: a word that decodes is the encoding of what it decodes to. -/
theorem encode_of_decode {cmd : Cmd} {i : Instr} (h : decode cmd = .ok i) : encode i = cmd := by
  apply BitVec.eq_of_toNat_eq
  rw [toNat_eq_fields cmd]
  unfold decode at h
  split at h
  · cases h
  next hrsv =>
  have hr : cmdRsv cmd = 0#4 := by simpa using hrsv
  split at h
  case h_3 hop => cases h; simp [toNat_encode_dect, hop, hr]; omega
  case h_7 hop => cases h; simp [toNat_encode_dectd, hop, hr]; omega
  case h_9 => cases h
  all_goals
    next hop =>
    split at h
    case isFalse => cases h
    next hz =>
    cases h
    simp only [toNat_encode_encw, toNat_encode_encb, toNat_encode_decp, toNat_encode_encwd, toNat_encode_encbd,
      toNat_encode_decpd, opndWord_toNat_eq_lanes, opndByte_eq_laneLo, hop, hr, hz, BitVec.toNat_ofNat]
    omega

/-- R66: a legal word decodes: each case of LEGAL is the case of one row of the decoder, its operand bits checked. -/
theorem decode_of_legal {cmd : Cmd} (h : legal cmd = true) : ∃ i, decode cmd = .ok i := by
  unfold legal at h
  obtain ⟨hrsv, hop⟩ := Bool.and_eq_true_iff.mp h
  have hr : cmdRsv cmd = 0#4 := by simpa using hrsv
  unfold decode
  rw [if_neg (not_not_intro hr)]
  split at hop <;> simp_all [opnd_hi_eq, opnd_hi_mid_eq_zero_iff]

theorem legal_eq_false_of_decode {cmd : Cmd} {k : IllegalReason} (h : decode cmd = .error k) : legal cmd = false := by
  by_contra hl
  obtain ⟨i, hi⟩ := decode_of_legal (by simpa using hl)
  cases h.symm.trans hi

namespace Machine

/-- R28, R140: the meaning of a command offers its encoding with the block function of it. -/
theorem exec_eq_blockFunction (i : Instr) (s : State) :
    exec i s = .next (s.issue (encode i) (blockFunction s.rom (encode i))) := by
  cases i with
  | encw w => rw [blockFunction_encw]; rfl
  | encb b => rw [blockFunction_encb]; rfl
  | dect l1 l2 l3 => rw [blockFunction_dect]; rfl
  | decp l1 l2 => rw [blockFunction_decp]; rfl
  | encwd w => rw [blockFunction_encwd]; rfl
  | encbd b => rw [blockFunction_encbd]; rfl
  | dectd l1 l2 l3 => rw [blockFunction_dectd]; rfl
  | decpd l1 l2 => rw [blockFunction_decpd]; rfl

/-- R28, R140: so does every command word, legal or not. -/
theorem runCommand_eq_blockFunction (cmd : Cmd) (s : State) :
    runCommand cmd s = .next (s.issue cmd (blockFunction s.rom cmd)) := by
  unfold runCommand
  split
  · next i hi => rw [exec_eq_blockFunction, encode_of_decode hi]
  · next k hk => rw [blockFunction_of_illegal _ _ (legal_eq_false_of_decode hk)]; rfl

/-- R123: the decoder reports no error but the two of its rule. -/
theorem dec3_ne_invalidLength (i1 i2 i3 : Option Digit) : dec3 i1 i2 i3 ≠ .error .invalidLength := by
  unfold dec3
  split
  · split <;> simp
  · simp

theorem raise_eq_respond (cmd : Cmd) {k : ErrorKind} (h : k ≠ .invalidLength) :
    ∃ st data, st ≠ .invalidLength ∧ raise cmd k = respond cmd st data := by
  refine ⟨k.status, 0#24, ?_, rfl⟩
  cases k <;> simp_all [ErrorKind.status]

theorem respondWord_eq_respond (cmd : Cmd) {r : Except ErrorKind Word} (h : r ≠ .error .invalidLength) :
    ∃ st data, st ≠ .invalidLength ∧ respondWord cmd r = respond cmd st data := by
  cases r with
  | ok v => exact ⟨.ok, 0#8 ++ v, by simp, rfl⟩
  | error k => exact raise_eq_respond cmd (by simpa using h)

theorem respondByte_eq_respond (cmd : Cmd) {r : Except ErrorKind Word} (h : r ≠ .error .invalidLength) :
    ∃ st data, st ≠ .invalidLength ∧ respondByte cmd r = respond cmd st data := by
  cases r with
  | ok v => exact ⟨.ok, 0#16 ++ v.setWidth 8, by simp, rfl⟩
  | error k => exact raise_eq_respond cmd (by simpa using h)

/-- R70, R71, R203: every response of the block is built by `respond`, and never with InvalidLength. -/
theorem blockFunction_eq_respond (rom : Vector Byte 45) (cmd : Cmd) :
    ∃ st data, st ≠ .invalidLength ∧ blockFunction rom cmd = respond cmd st data := by
  cases hl : legal cmd with
  | false => exact ⟨.illegalCommand, _, nofun, blockFunction_of_illegal rom cmd hl⟩
  | true =>
    obtain ⟨i, hi⟩ := decode_of_legal hl
    rw [← encode_of_decode hi]
    cases i with
    | encw w => exact ⟨.ok, _, nofun, blockFunction_encw rom w⟩
    | encb b => exact ⟨.ok, _, nofun, blockFunction_encb rom b⟩
    | dect l1 l2 l3 => rw [blockFunction_dect]; exact respondWord_eq_respond _ (dec3_ne_invalidLength _ _ _)
    | decp l1 l2 => rw [blockFunction_decp]; exact respondByte_eq_respond _ (dec3_ne_invalidLength _ _ _)
    | encwd w => exact ⟨.ok, _, nofun, blockFunction_encwd rom w⟩
    | encbd b => exact ⟨.ok, _, nofun, blockFunction_encbd rom b⟩
    | dectd l1 l2 l3 => rw [blockFunction_dectd]; exact respondWord_eq_respond _ (dec3_ne_invalidLength _ _ _)
    | decpd l1 l2 => rw [blockFunction_decpd]; exact respondByte_eq_respond _ (dec3_ne_invalidLength _ _ _)

/-- R72: the block function echoes the op of its command. -/
@[simp] theorem rspOp_blockFunction (rom : Vector Byte 45) (cmd : Cmd) : rspOp (blockFunction rom cmd) = cmdOp cmd := by
  obtain ⟨st, data, -, h⟩ := blockFunction_eq_respond rom cmd
  rw [h, rspOp_respond]

theorem statusProduced_code {st : Status} (h : st ≠ .invalidLength) : statusProduced st.code = true := by
  cases st with
  | invalidLength => exact absurd rfl h
  | ok | invalidCharacter | invalidCode | illegalCommand => rfl

/-- R71, R203: the block function's status is one the block produces. -/
@[simp] theorem statusProduced_blockFunction (rom : Vector Byte 45) (cmd : Cmd) :
    statusProduced (rspStatus (blockFunction rom cmd)) = true := by
  obtain ⟨st, data, hst, h⟩ := blockFunction_eq_respond rom cmd
  rw [h, rspStatus_respond, statusProduced_code hst]

end Machine

end Sys2Proof
end

section
/-! PROOFS. One rising edge as a relation: what the command channel, then the response channel, can do, and what each
leaves unchanged. The relations follow `clockEdge`; `step_turn` ties them to the step. -/

namespace Sys2Proof.Machine

/-! ### What is on offer -/

@[simp] theorem State.rspValid_false (s : State) : s.rspValid false = s.offered.isSome := rfl

theorem State.rspData_of_offered {s : State} {r : Rsp} (h : s.offered = some r) : s.rspData false = r := by
  simp [State.rspData, h]

@[simp] theorem State.offered_advance (s : State) : s.advance.offered = s.offered := rfl
@[simp] theorem State.offered_resetRelease (s : State) : s.resetRelease.offered = s.offered := rfl

theorem State.offered_of_q_eq_nil {s : State} (h : s.q = []) : s.offered = none := by
  simp [State.offered, h]

theorem State.offered_of_q_eq_cons {s : State} {x : InFlight} {rest : List InFlight} (h : s.q = x :: rest) :
    s.offered = if x.wait = 0 then some x.rsp else none := by
  simp [State.offered, h]

/-- R31: a command accepted at an edge does not change what is on offer at it, because LATENCY is at least 1. -/
@[simp] theorem State.offered_accept (s : State) (cmd : Cmd) (rsp : Rsp) : (s.accept cmd rsp).offered = s.offered := by
  cases hq : s.q with
  | nil =>
    rw [State.offered_of_q_eq_nil hq, State.offered_of_q_eq_cons (by rw [State.accept_q, hq]; rfl)]
    simp [Config.latency]
  | cons x rest =>
    rw [State.offered_of_q_eq_cons hq, State.offered_of_q_eq_cons (by rw [State.accept_q, hq]; rfl)]

/-- R22: what is on offer is the head of `Q`, its wait over. -/
theorem State.q_of_offered {s : State} {r : Rsp} (h : s.offered = some r) :
    ∃ rest, s.q = { rsp := r, wait := 0 } :: rest := by
  rcases s.offered_cases with ⟨hn, -⟩ | ⟨r', rest, hq, ho⟩
  · cases hn.symm.trans h
  · cases ho.symm.trans h
    exact ⟨rest, hq⟩

/-- R22: what is on offer is still on offer a cycle later, if nobody takes it. -/
theorem State.offered_tick {s : State} {r : Rsp} (h : s.offered = some r) : s.tick.offered = some r := by
  obtain ⟨rest, hq⟩ := State.q_of_offered h
  rw [State.offered_of_q_eq_cons (by rw [State.tick_q, hq]; rfl)]
  rfl

/-- R30, R32: at an edge with `rst = 0` a command is accepted on the released state exactly when `cmd_ready` is high. -/
theorem State.ready_released_iff (s : State) : s.advance.resetRelease.Ready ↔ s.cmdReady false = true := by
  rw [State.cmdReady_iff]
  exact ⟨fun h => ⟨rfl, h.room, h.ready⟩, fun h => ⟨rfl, h.room, h.ready⟩⟩

/-- R30: with room in `Q` and `rst = 0`, `cmd_ready` is low only while its countdown is not over. -/
theorem State.readyWait_ne_zero {s : State} (h : s.cmdReady false = false) (hq : s.q.length < Config.depth) :
    s.readyWait ≠ 0 := by
  simpa [State.cmdReady, State.hasRoom, hq] using h

/-! ### The turns of the two channels -/

/-- R21: the command channel's turn at an edge with `rst = 0`, from the released state. -/
inductive CommandTurn (e : Edge) (s : State) : State → Prop where
  | idle : e.cmdValid = false → CommandTurn e s s
  | accept (cmd : Cmd) : e.cmdValid = true → e.cmdData = some cmd → s.Ready →
      CommandTurn e s (s.accept cmd (blockFunction s.rom cmd))
  | hold (cmd : Cmd) : e.cmdValid = true → e.cmdData = some cmd → ¬ s.Ready → CommandTurn e s (s.hold cmd)

/-- R22: the response channel's turn at an edge with `rst = 0`. -/
inductive ResponseTurn (rdy : Bool) (s : State) : State → Prop where
  | idle : s.offered = none → ResponseTurn rdy s (s.see none)
  | take (r : Rsp) : s.offered = some r → rdy = true → ResponseTurn rdy s (s.take r)
  | stay (r : Rsp) : s.offered = some r → rdy = false → ResponseTurn rdy s (s.see (some r))

/-- R29, R231: one edge from the state `s`: a reset, or the turns of the two channels and then the countdowns. -/
inductive EdgeTurn (s : State) (e : Edge) : State → Prop where
  | reset : e.rst = true → EdgeTurn s e s.advance.resetAssert
  | run (t u : State) : e.rst = false → dutyBroken s.host.held e = none → CommandTurn e s.advance.resetRelease t →
      ResponseTurn e.rspReady t u → EdgeTurn s e u.tick

theorem commandChannel_turn {e : Edge} {s t : State} (hd : e.cmdValid = true → e.cmdData ≠ none)
    (h : commandChannel e s = .next t) : CommandTurn e s t := by
  rcases commandChannel_cases e s with ⟨hs, hv⟩ | ⟨cmd, hv, hcmd, hs⟩
  · cases hs.symm.trans h
    refine .idle ?_
    rcases hv with hv | hn
    · exact hv
    · exact Bool.eq_false_iff.mpr fun hv => hd hv hn
  · rw [hs, runCommand_eq_blockFunction] at h
    cases h
    rcases s.issue_cases cmd (blockFunction s.rom cmd) with ⟨hr, hi⟩ | ⟨hr, hi⟩
    · rw [hi]; exact .accept cmd hv hcmd hr
    · rw [hi]; exact .hold cmd hv hcmd hr

theorem deliver_turn {rdy : Bool} {s s' : State} (h : deliver rdy s = .next s') : ResponseTurn rdy s s' := by
  rcases deliver_cases h with ⟨ho, rfl⟩ | ⟨r, ho, hr, -, rfl⟩ | ⟨r, ho, hr, rfl⟩
  · exact .idle ho
  · exact .take r ho hr
  · exact .stay r ho hr

/-- Everything a step can do when it answers a next state, the response of an accepted command included. -/
theorem step_turn {s s' : State} (h : step s = .next s') : ∃ e, s.host.nextEvent = .edge e ∧ EdgeTurn s e s' := by
  obtain ⟨e, he, hc⟩ := step_cases h
  refine ⟨e, he, ?_⟩
  rcases clockEdge_cases hc with ⟨hr, rfl⟩ | ⟨hr, hd, hu, t, u, ht, hu', rfl⟩
  · exact .reset hr
  · exact .run t u hr (by simpa using hd) (commandChannel_turn hu ht) (deliver_turn hu')

theorem edgeTurn_of_step {s s' : State} {e : Edge} (he : s.host.nextEvent = .edge e) (h : step s = .next s') :
    EdgeTurn s e s' := by
  obtain ⟨e', he', ht⟩ := step_turn h
  cases he.symm.trans he'
  exact ht

/-- The same at an edge with `rst = 0`. -/
theorem turns_of_step {s s' : State} {e : Edge} (he : s.host.nextEvent = .edge e) (hr : e.rst = false)
    (h : step s = .next s') :
    ∃ t u, CommandTurn e s.advance.resetRelease t ∧ ResponseTurn e.rspReady t u ∧ s' = u.tick := by
  cases edgeTurn_of_step he h with
  | reset hr' => cases hr.symm.trans hr'
  | run t u _ _ hc hu => exact ⟨t, u, hc, hu, rfl⟩

/-! ### What the turns leave unchanged -/

namespace CommandTurn

variable {e : Edge} {s t : State}

theorem rom (h : CommandTurn e s t) : t.rom = s.rom := by cases h <;> rfl
theorem inReset (h : CommandTurn e s t) : t.inReset = s.inReset := by cases h <;> rfl
theorem readyWait (h : CommandTurn e s t) : t.readyWait = s.readyWait := by cases h <;> rfl
theorem script (h : CommandTurn e s t) : t.host.script = s.host.script := by cases h <;> rfl
theorem received (h : CommandTurn e s t) : t.host.received = s.host.received := by cases h <;> rfl
theorem offered (h : CommandTurn e s t) : t.offered = s.offered := by
  cases h with
  | idle => rfl
  | accept cmd => exact s.offered_accept cmd _
  | hold cmd => rfl

/-- R27: the head of `Q` stays the head. -/
theorem head (h : CommandTurn e s t) {x : InFlight} {rest : List InFlight} (hq : s.q = x :: rest) :
    ∃ rest', t.q = x :: rest' := by
  cases h with
  | idle => exact ⟨rest, hq⟩
  | hold => exact ⟨rest, hq⟩
  | accept => exact ⟨_, by rw [State.accept_q, hq]; rfl⟩

/-- R21: a block that is not ready accepts nothing. -/
theorem issued_of_not_ready (h : CommandTurn e s t) (hr : ¬ s.Ready) : t.host.issued = s.host.issued := by
  cases h with
  | idle => rfl
  | accept _ _ _ hr' => exact absurd hr' hr
  | hold => rfl

end CommandTurn

namespace ResponseTurn

variable {rdy : Bool} {t u : State}

theorem rom (h : ResponseTurn rdy t u) : u.rom = t.rom := by cases h <;> rfl
theorem inReset (h : ResponseTurn rdy t u) : u.inReset = t.inReset := by cases h <;> rfl
theorem readyWait (h : ResponseTurn rdy t u) : u.readyWait = t.readyWait := by cases h <;> rfl
theorem script (h : ResponseTurn rdy t u) : u.host.script = t.host.script := by cases h <;> rfl
theorem program (h : ResponseTurn rdy t u) : u.host.program = t.host.program := by cases h <;> rfl
theorem held (h : ResponseTurn rdy t u) : u.host.held = t.host.held := by cases h <;> rfl
theorem issued (h : ResponseTurn rdy t u) : u.host.issued = t.host.issued := by cases h <;> rfl

/-- R22: nothing on offer, nothing delivered. -/
theorem of_offered_none (h : ResponseTurn rdy t u) (ho : t.offered = none) : u = t.see none := by
  cases h with
  | idle => rfl
  | take r hr => cases ho.symm.trans hr
  | stay r hr => cases ho.symm.trans hr

/-- R22: a host that is ready takes what is on offer. -/
theorem of_offered_some (h : ResponseTurn true t u) {r : Rsp} (ho : t.offered = some r) : u = t.take r := by
  cases h with
  | idle hn => cases ho.symm.trans hn
  | take r' hr => cases ho.symm.trans hr; rfl
  | stay _ _ hf => cases hf

/-- R22: a host that is not ready leaves it on offer. -/
theorem of_not_ready (h : ResponseTurn false t u) {r : Rsp} (ho : t.offered = some r) : u = t.see (some r) := by
  cases h with
  | idle hn => cases ho.symm.trans hn
  | take _ _ hf => cases hf
  | stay r' hr => cases ho.symm.trans hr; rfl

end ResponseTurn

/-! ### What every step does to the ROM, the script and the waits -/

@[simp] theorem HostSide.advance_script (h : HostSide) : h.advance.script = h.script.tail := by
  unfold HostSide.advance
  split
  · next hs => simp [hs]
  · split <;> simp_all

/-- R43: no step writes the ROM. -/
theorem step_rom {s s' : State} (h : step s = .next s') : s'.rom = s.rom := by
  obtain ⟨e, -, ht⟩ := step_turn h
  cases ht with
  | reset => rfl
  | run t u _ _ hc hu => rw [State.tick_rom, hu.rom, hc.rom]; rfl

theorem step_script {s s' : State} (h : step s = .next s') : s'.host.script = s.host.script.tail := by
  obtain ⟨e, -, ht⟩ := step_turn h
  cases ht with
  | reset => exact s.host.advance_script
  | run t u _ _ hc hu =>
    rw [State.tick_host, hu.script, hc.script]
    exact s.host.advance_script

/-- R30: with no reset, a countdown that is not over goes one cycle down. -/
theorem readyWait_of_step {s s' : State} {e : Edge} (he : s.host.nextEvent = .edge e) (hr : e.rst = false)
    (h : step s = .next s') (hw : s.readyWait ≠ 0) : s'.readyWait = s.readyWait - 1 := by
  obtain ⟨t, u, hc, hu, rfl⟩ := turns_of_step he hr h
  have hu' : u.readyWait = s.readyWait := by rw [hu.readyWait, hc.readyWait]; rfl
  rw [State.tick_readyWait, hu', if_neg hw]

/-! ### Runs -/

/-- A property that counts down from at most `M`, one at every step, has counted down by `k` after `k` edges. -/
theorem runEdges_countdown {P : Nat → State → Prop} {M : Nat}
    (hstep : ∀ m s s', m < M → P (m + 1) s → step s = .next s' → P m s') {k m : Nat} {s s' : State}
    (hm : m + k ≤ M) (hP : P (m + k) s) (h : runEdges k s = .next s') : P m s' := by
  induction k generalizing s with
  | zero => cases h; exact hP
  | succ k ih =>
    obtain ⟨t, ht, h⟩ := (runEdges_succ_iff ..).mp h
    exact ih (by omega) (hstep _ _ _ (by omega) hP ht) h

end Sys2Proof.Machine
end

section
/-! PROOFS. The invariant of the channels: every operation of an edge keeps it, so every step does; from a state that
meets it no edge at which the host keeps its duties is stopped. -/

namespace Sys2Proof.Machine

namespace State.Inv

variable {s : State}

theorem reset : State.reset.Inv := ⟨Nat.zero_le _, rfl, nofun, rfl, nofun⟩

theorem advance (h : s.Inv) : s.advance.Inv :=
  { room := h.room, rom := h.rom
    quiet := by simpa using h.quiet
    order := by simpa using h.order
    steady := by simpa using h.steady }

theorem resetAssert (h : s.Inv) : s.resetAssert.Inv := ⟨Nat.zero_le _, h.rom, fun _ => ⟨rfl, rfl, rfl⟩, rfl, nofun⟩

theorem resetRelease (h : s.Inv) : s.resetRelease.Inv := ⟨h.room, h.rom, nofun, h.order, h.steady⟩

/-- R27, R47: an accepted command finds room, and its response joins those in flight at the end. -/
theorem accept (h : s.Inv) (hr : s.Ready) (cmd : Cmd) : (s.accept cmd (blockFunction s.rom cmd)).Inv where
  room := by have := hr.room; simp only [State.accept_q, List.length_append, List.length_singleton]; omega
  rom := h.rom
  quiet hi := by cases hr.released.symm.trans hi
  order := by simp [← h.order, h.rom]
  steady r hs := by rw [State.offered_accept]; exact h.steady r hs

theorem hold (h : s.Inv) (cmd : Cmd) : (s.hold cmd).Inv := ⟨h.room, h.rom, h.quiet, h.order, h.steady⟩

/-- R47: the response that leaves `Q` is the next of those received. -/
theorem take (h : s.Inv) {r : Rsp} (ho : s.offered = some r) : (s.take r).Inv := by
  obtain ⟨rest, hq⟩ := State.q_of_offered ho
  exact
    { room := by have := h.room; simp only [State.take_q, List.length_tail]; omega
      rom := h.rom
      quiet := fun hi => by cases hq.symm.trans (h.quiet hi).1
      order := by simpa [hq] using h.order
      steady := nofun }

theorem see (h : s.Inv) : (s.see s.offered).Inv := ⟨h.room, h.rom, h.quiet, h.order, fun _ hs => hs⟩

theorem tick (h : s.Inv) : s.tick.Inv where
  room := by simpa using h.room
  rom := h.rom
  quiet hi := by simpa using h.quiet hi
  order := by simpa using h.order
  steady r hs := State.offered_tick (h.steady r hs)

theorem commandTurn (h : s.Inv) {e : Edge} {t : State} (ht : CommandTurn e s t) : t.Inv := by
  cases ht with
  | idle => exact h
  | accept cmd _ _ hr => exact h.accept hr cmd
  | hold cmd => exact h.hold cmd

theorem responseTurn (h : s.Inv) {rdy : Bool} {t : State} (ht : ResponseTurn rdy s t) : t.Inv := by
  cases ht with
  | idle ho => exact ho ▸ h.see
  | take r ho => exact h.take ho
  | stay r ho => exact ho ▸ h.see

theorem step (h : s.Inv) {s' : State} (hs : step s = .next s') : s'.Inv := by
  obtain ⟨e, -, ht⟩ := step_turn hs
  cases ht with
  | reset => exact h.advance.resetAssert
  | run t u _ _ hc hu => exact ((h.advance.resetRelease.commandTurn hc).responseTurn hu).tick

/-- R47: one response received or in flight for each command accepted. -/
theorem count (h : s.Inv) : s.host.received.length + s.q.length = s.host.issued.length := by
  simpa using congrArg List.length h.order

/-- R208: what the block offers is no faulty response. -/
theorem responseFault_eq_none (h : s.Inv) {r : Rsp} (ho : s.offered = some r) :
    responseFault s.host.issued s.host.received r = none := by
  obtain ⟨rest, hq⟩ := State.q_of_offered ho
  have hat : (s.host.issued.map (blockFunction alphabet))[s.host.received.length]? = some r := by
    simp [← h.order, hq]
  rw [List.getElem?_map, Option.map_eq_some_iff] at hat
  obtain ⟨cmd, hcmd, rfl⟩ := hat
  simp [responseFault, hcmd]

theorem deliver_next (h : s.Inv) (rdy : Bool) : ∃ t, deliver rdy s = .next t := by
  unfold deliver
  split
  · exact ⟨_, rfl⟩
  · next r ho =>
    have hseen : (s.host.seen.isSome && s.host.seen != some r) = false := by
      cases hs : s.host.seen with
      | none => rfl
      | some r' => simp [Option.some.inj (ho.symm.trans (h.steady r' hs))]
    rw [hseen, h.responseFault_eq_none ho]
    cases rdy <;> exact ⟨_, rfl⟩

/-- An edge at which the host keeps its duties is not stopped. -/
theorem clockEdge_next (h : s.Inv) {e : Edge} (hu : e.cmdValid = true → e.cmdData ≠ none)
    (hd : dutyBroken s.host.held e = none) : ∃ t, clockEdge e s = .next t := by
  have hun : (e.cmdValid && e.cmdData.isNone) = false := by
    cases hv : e.cmdValid with
    | false => rfl
    | true => simpa [Option.isSome_iff_ne_none] using hu hv
  unfold clockEdge
  rw [hun, hd]
  cases e.rst with
  | true => exact ⟨_, rfl⟩
  | false =>
    obtain ⟨t, ht⟩ : ∃ t, commandChannel e s.resetRelease = .next t := by
      rcases commandChannel_cases e s.resetRelease with ⟨ht, -⟩ | ⟨cmd, -, -, ht⟩
      · exact ⟨_, ht⟩
      · exact ⟨_, ht.trans (runCommand_eq_blockFunction ..)⟩
    obtain ⟨u, hu'⟩ := (h.resetRelease.commandTurn (commandChannel_turn hu ht)).deliver_next e.rspReady
    exact ⟨u.tick, by simp [runEdge, ht, finishEdge, hu']⟩

end State.Inv

/-- Settles O42: with nothing exchanged and nothing in flight. -/
theorem invariantHoldsAtReset : Obligations.InvariantHoldsAtReset := State.Inv.reset

/-- Settles O43: each of the operations that an edge is made of keeps the invariant. -/
theorem everyStepKeepsTheInvariant : Obligations.EveryStepKeepsTheInvariant :=
  fun _ _ hI hs => hI.step hs

end Sys2Proof.Machine
end

section
/-! PROOFS. R31: no response comes before its LATENCY cycles are over. -/

namespace Sys2Proof.Machine

/-- R31: at most `n` responses have been received, and each in flight that answers the command at place `n` or a later
one still waits at least `m` cycles. -/
structure State.Awaiting (n m : Nat) (s : State) : Prop where
  received : s.host.received.length ≤ n
  waits : ∀ x ∈ s.q.drop (n - s.host.received.length), m ≤ x.wait

namespace State.Awaiting

variable {n m : Nat} {s t : State}

/-- R47: of the commands that come after all those accepted so far, none is in flight. -/
theorem of_inv (h : s.Inv) (m : Nat) : s.Awaiting s.host.issued.length m := by
  have hcount := h.count
  refine ⟨by omega, fun x hx => ?_⟩
  rw [List.drop_eq_nil_of_le (by omega)] at hx
  cases hx

theorem commandTurn (h : s.Awaiting n m) (hm : m ≤ Config.latency) {e : Edge} (ht : CommandTurn e s t) :
    t.Awaiting n m := by
  cases ht with
  | idle => exact h
  | hold cmd => exact ⟨h.received, h.waits⟩
  | accept cmd =>
    refine ⟨h.received, fun x hx => ?_⟩
    rw [State.accept_q, State.accept_received, List.drop_append, List.mem_append] at hx
    rcases hx with hx | hx
    · exact h.waits x hx
    · cases List.mem_singleton.mp (List.mem_of_mem_drop hx)
      exact hm.trans (Nat.le_add_left ..)

/-- R31: a response that still waits is not taken, so no more than `n` are received. -/
theorem responseTurn (h : s.Awaiting n (m + 1)) {rdy : Bool} (ht : ResponseTurn rdy s t) : t.Awaiting n (m + 1) := by
  cases ht with
  | idle => exact ⟨h.received, h.waits⟩
  | stay => exact ⟨h.received, h.waits⟩
  | take r ho =>
    obtain ⟨rest, hq⟩ := State.q_of_offered ho
    have hlt : s.host.received.length < n := by
      refine lt_of_le_of_ne h.received fun heq => ?_
      have := h.waits { rsp := r, wait := 0 } (by simp [hq, heq])
      simp at this
    have hdrop : s.q.drop (n - s.host.received.length) = rest.drop (n - (s.host.received.length + 1)) := by
      rw [hq, show n - s.host.received.length = n - (s.host.received.length + 1) + 1 by omega, List.drop_succ_cons]
    refine ⟨by simpa using hlt, fun x hx => h.waits x ?_⟩
    rw [hdrop]
    simpa [hq] using hx

theorem tick (h : s.Awaiting n (m + 1)) : s.tick.Awaiting n m := by
  refine ⟨h.received, fun x hx => ?_⟩
  rw [State.tick_q, State.tick_host, ← List.map_drop, List.mem_map] at hx
  obtain ⟨y, hy, rfl⟩ := hx
  exact Nat.le_sub_one_of_lt (h.waits y hy)

theorem step (h : s.Awaiting n (m + 1)) (hm : m < Config.latency) (hs : step s = .next t) : t.Awaiting n m := by
  obtain ⟨e, -, ht⟩ := step_turn hs
  cases ht with
  | reset => exact ⟨Nat.zero_le n, by simp⟩
  | run t u _ _ hc hu =>
    have hstart : s.advance.resetRelease.Awaiting n (m + 1) :=
      ⟨by simpa using h.received, by simpa using h.waits⟩
    exact ((hstart.commandTurn hm hc).responseTurn hu).tick

end State.Awaiting

/-- Settles O41: counting the edges from the state before the acceptance, one more than `k`, the command's response
waits until LATENCY of them are over. -/
theorem noResponseBeforeLatency : Obligations.NoResponseBeforeLatency := by
  intro s s1 cmd hI hs _ k s2 hk hrun
  have hrun' : runEdges (k + 1) s = .next s2 := (runEdges_succ_iff ..).mpr ⟨s1, hs, hrun⟩
  exact (runEdges_countdown (P := State.Awaiting s.host.issued.length) (fun _ _ _ hm h hs => h.step hm hs)
    (Nat.sub_add_cancel hk).le (State.Awaiting.of_inv hI _) hrun').received

end Sys2Proof.Machine
end

section
/-! PROOFS. R29: an edge as a list of the actions of the transition system, in the order release, acceptance, delivery
(log entry 3). Each turn of an edge is one action or none. -/

namespace Sys2Proof.Machine

theorem View.acts_append (rom : Vector Byte 45) (v : View) (as bs : List BlockAction) :
    v.acts rom (as ++ bs) = (v.acts rom as).bind fun w => w.acts rom bs := by
  induction as generalizing v with
  | nil => rfl
  | cons a as ih =>
    simp only [List.cons_append, View.acts]
    cases v.act rom a with
    | none => rfl
    | some w => exact ih w

theorem View.acts_singleton (rom : Vector Byte 45) (v : View) (a : BlockAction) : v.acts rom [a] = v.act rom a := by
  simp only [View.acts]
  cases v.act rom a <;> rfl

@[simp] theorem State.view_tick (s : State) : s.tick.view = s.view := by simp [State.view]

/-- R29 `ResetRelease`. -/
theorem release_actions (s : State) : ∃ r : List BlockAction, (r = [] ∨ r = [.resetRelease]) ∧
    s.view.acts s.rom r = some s.advance.resetRelease.view := by
  cases hi : s.inReset with
  | false => exact ⟨[], .inl rfl, by simp [View.acts, State.view, hi]⟩
  | true => exact ⟨[.resetRelease], .inr rfl, by simp [View.acts_singleton, View.act, State.view, hi]⟩

/-- R29 `Accept`. -/
theorem CommandTurn.actions {e : Edge} {s t : State} (h : CommandTurn e s t) :
    ∃ a : List BlockAction, (a = [] ∨ ∃ cmd, a = [.accept cmd] ∧ s.Ready ∧ e.cmdValid = true ∧ e.cmdData = some cmd) ∧
      s.view.acts s.rom a = some t.view := by
  cases h with
  | idle => exact ⟨[], .inl rfl, rfl⟩
  | hold cmd => exact ⟨[], .inl rfl, rfl⟩
  | accept cmd hv hd hr =>
    exact ⟨[.accept cmd], .inr ⟨cmd, rfl, hr, hv, hd⟩,
      by simp [View.acts_singleton, View.act, State.view, hr.released, hr.room]⟩

/-- R29 `Deliver`. -/
theorem ResponseTurn.actions {rdy : Bool} {s t : State} (h : ResponseTurn rdy s t) (hi : s.inReset = false)
    (rom : Vector Byte 45) :
    ∃ d : List BlockAction, (d = [] ∨ d = [.deliver] ∧ s.offered.isSome = true ∧ rdy = true) ∧
      s.view.acts rom d = some t.view := by
  cases h with
  | idle => exact ⟨[], .inl rfl, rfl⟩
  | stay => exact ⟨[], .inl rfl, rfl⟩
  | take r ho hr =>
    obtain ⟨rest, hq⟩ := State.q_of_offered ho
    exact ⟨[.deliver], .inr ⟨rfl, by simp [ho], hr⟩, by simp [View.acts_singleton, View.act, State.view, hq, hi]⟩

theorem State.queue_ne_nil_of_offered {s : State} (h : s.offered.isSome = true) : s.view.queue ≠ [] := by
  obtain ⟨r, ho⟩ := Option.isSome_iff_exists.mp h
  obtain ⟨rest, hq⟩ := State.q_of_offered ho
  simp [State.view, hq]

/-- An edge with `rst = 0` is a release, an acceptance and a delivery, or fewer of them, under their requirements. -/
theorem turns_actions {s t u : State} {e : Edge} (hr : e.rst = false) (hc : CommandTurn e s.advance.resetRelease t)
    (hu : ResponseTurn e.rspReady t u) :
    ∃ as, edgeActions s.view as ∧ (∀ a ∈ as, s.pinsAllow e a) ∧ s.view.acts s.rom as = some u.view := by
  obtain ⟨r, hr', hrel⟩ := release_actions s
  obtain ⟨a, ha, hacc⟩ := hc.actions
  obtain ⟨d, hd, hdel⟩ := hu.actions hc.inReset s.rom
  rw [hc.offered, State.offered_resetRelease, State.offered_advance] at hd
  rw [State.resetRelease_rom, State.advance_rom] at hacc
  refine ⟨r ++ a ++ d, .inr ⟨r, a, d, rfl, hr', ?_, ?_⟩, ?_, ?_⟩
  · exact ha.imp_right fun ⟨cmd, h, _⟩ => ⟨cmd, h⟩
  · exact hd.imp_right fun ⟨h, ho, _⟩ => ⟨h, State.queue_ne_nil_of_offered ho⟩
  · have hrelease : ∀ x ∈ r, s.pinsAllow e x := by
      rcases hr' with rfl | rfl
      · simp
      · simpa [State.pinsAllow] using hr
    have haccept : ∀ x ∈ a, s.pinsAllow e x := by
      rcases ha with rfl | ⟨cmd, rfl, hready, hv, hcmd⟩
      · simp
      · simpa [State.pinsAllow, hr, hv, hcmd] using s.ready_released_iff.mp hready
    have hdeliver : ∀ x ∈ d, s.pinsAllow e x := by
      rcases hd with rfl | ⟨rfl, ho, hrdy⟩
      · simp
      · simpa [State.pinsAllow, hr, hrdy] using ho
    simp only [List.mem_append]
    rintro x ((hx | hx) | hx)
    · exact hrelease x hx
    · exact haccept x hx
    · exact hdeliver x hx
  · rw [View.acts_append, View.acts_append, hrel, Option.bind_some, hacc, Option.bind_some, hdel]

/-- Settles O46: a reset edge is one action, any other the actions of its turns. -/
theorem everyEdgeRefinesTheActionsOfTheSpec : Obligations.EveryEdgeRefinesTheActionsOfTheSpec := by
  intro s s' h
  obtain ⟨e, he, ht⟩ := step_turn h
  cases ht with
  | reset hr => exact ⟨e, [.resetAssert], he, .inl rfl, by simpa [State.pinsAllow] using hr, rfl⟩
  | run t u hr _ hc hu =>
    obtain ⟨as, has, hpins, hacts⟩ := turns_actions hr hc hu
    exact ⟨e, as, he, has, hpins, by rw [State.view_tick]; exact hacts⟩

end Sys2Proof.Machine
end

section
/-! PROOFS. The model's host loop (log entry 6), which has no script left: each of its edges accepts a command, delivers
a response, or comes nearer to one of them, so it comes to its end. -/

namespace Sys2Proof.Machine

/-- The commands the host loop still has to see accepted: the one it holds, then those of its program. -/
def HostSide.pending (h : HostSide) : List Cmd := h.held.toList ++ h.program

/-- What is left to do: two for a command still to be accepted, because its response must be delivered too, and one for
a response in flight. -/
def State.work (s : State) : Nat := 2 * s.host.pending.length + s.q.length

/-- How long the block stalls before it does some of that work: the wait of the head of `Q`, or, with `Q` empty, that of
`cmd_ready`. -/
def State.stall (s : State) : Nat :=
  match s.q with
  | [] => s.readyWait
  | x :: _ => x.wait

theorem State.stall_of_q_eq_nil {s : State} (h : s.q = []) : s.stall = s.readyWait := by simp [State.stall, h]

theorem State.stall_of_q_eq_cons {s : State} {x : InFlight} {rest : List InFlight} (h : s.q = x :: rest) :
    s.stall = x.wait := by simp [State.stall, h]

theorem State.stall_congr {s t : State} (hq : t.q = s.q) (hw : t.readyWait = s.readyWait) : t.stall = s.stall := by
  simp [State.stall, hq, hw]

/-! ### The host loop's next edge -/

theorem HostSide.nextEvent_of_pending_nil {h : HostSide} (hs : h.script = []) (hp : h.pending = []) :
    h.nextEvent = .edge idleEdge := by
  obtain ⟨hheld, hprog⟩ := List.append_eq_nil_iff.mp hp
  rw [Option.toList_eq_nil_iff] at hheld
  simp [HostSide.nextEvent, hs, hheld, hprog]

theorem HostSide.nextEvent_of_pending_cons {h : HostSide} {cmd : Cmd} {rest : List Cmd} (hs : h.script = [])
    (hp : h.pending = cmd :: rest) : h.nextEvent = .edge (offerEdge cmd) := by
  unfold HostSide.pending at hp
  cases hheld : h.held with
  | some c => simp_all [HostSide.nextEvent]
  | none => simp_all [HostSide.nextEvent]

/-- Taking the event leaves in the program what follows the command that is offered. -/
theorem HostSide.advance_program {h : HostSide} (hs : h.script = []) : h.advance.program = h.pending.tail := by
  unfold HostSide.pending
  cases hheld : h.held with
  | some c => simp [HostSide.advance, hs, hheld]
  | none => simp [HostSide.advance, hs, hheld]

theorem HostSide.held_of_pending_cons {h : HostSide} {cmd : Cmd} {rest : List Cmd} (hp : h.pending = cmd :: rest) :
    h.held = none ∨ h.held = some cmd := by
  unfold HostSide.pending at hp
  cases hheld : h.held with
  | some c => simp_all
  | none => exact .inl rfl

/-! ### One edge of the host loop -/

/-- What the command channel does for the host loop: it accepts the first pending command, or changes neither `Q` nor
what is pending, and does so with a command pending only if the block is not ready. -/
theorem CommandTurn.hostLoop {s t : State} {e : Edge} (hs : s.host.script = []) (he : s.host.nextEvent = .edge e)
    (h : CommandTurn e s.advance.resetRelease t) :
    t.host.issued ++ t.host.pending = s.host.issued ++ s.host.pending ∧
      ((t.host.pending.length + 1 = s.host.pending.length ∧ t.q.length = s.q.length + 1) ∨
        (t.host.pending = s.host.pending ∧ t.q = s.q ∧ (s.host.pending ≠ [] → s.cmdReady false = false))) := by
  have hprog : s.advance.resetRelease.host.program = s.host.pending.tail := HostSide.advance_program hs
  cases hp : s.host.pending with
  | nil =>
    cases (HostSide.nextEvent_of_pending_nil hs hp).symm.trans he
    cases h with
    | accept _ hv => cases hv
    | hold _ hv => cases hv
    | idle =>
      have hheld : s.host.held = none := Option.toList_eq_nil_iff.mp (List.append_eq_nil_iff.mp hp).1
      have hpend : s.host.advance.pending = [] := by
        rw [HostSide.pending, HostSide.advance_program hs, hp]
        simp [hheld]
      simp [hpend]
  | cons cmd rest =>
    cases (HostSide.nextEvent_of_pending_cons hs hp).symm.trans he
    rw [hp] at hprog
    cases h with
    | idle hv => cases hv
    | accept cmd' _ hd hr =>
      cases hd
      have hpend : (s.advance.resetRelease.accept cmd (blockFunction s.rom cmd)).host.pending = rest := by
        simpa [HostSide.pending] using hprog
      exact ⟨by simp [hpend], .inl ⟨by simp [hpend], by simp⟩⟩
    | hold cmd' _ hd hr =>
      cases hd
      have hpend : (s.advance.resetRelease.hold cmd).host.pending = cmd :: rest := by
        simpa [HostSide.pending] using hprog
      refine ⟨by simp [hpend], .inr ⟨hpend, rfl, fun _ => ?_⟩⟩
      rwa [s.ready_released_iff, Bool.not_eq_true] at hr

/-- What the response channel does for a host that is always ready: it takes the head of `Q`, or the head still waits. -/
theorem ResponseTurn.queue_cases {t u : State} (h : ResponseTurn true t u) :
    (t.offered = none ∧ u.q = t.q) ∨ u.q.length + 1 = t.q.length := by
  cases h with
  | idle ho => exact .inl ⟨ho, rfl⟩
  | stay _ _ hf => cases hf
  | take r ho =>
    obtain ⟨rest, hq⟩ := State.q_of_offered ho
    exact .inr (by simp [hq])

theorem ResponseTurn.pending {rdy : Bool} {t u : State} (h : ResponseTurn rdy t u) :
    u.host.pending = t.host.pending := by
  rw [HostSide.pending, HostSide.pending, h.program, h.held]

@[simp] theorem State.work_tick (s : State) : s.tick.work = s.work := by simp [State.work]

/-- An edge at which nothing is on offer, and `cmd_ready` is low if `Q` is empty, shortens the stall. -/
theorem State.stall_tick_lt {s : State} (ho : s.offered = none) (hw : s.q = [] → s.readyWait ≠ 0) :
    s.tick.stall < s.stall := by
  cases hq : s.q with
  | nil =>
    rw [State.stall_of_q_eq_nil hq, State.stall_of_q_eq_nil (by simp [hq]), State.tick_readyWait, if_neg (hw hq)]
    have := hw hq
    omega
  | cons x rest =>
    rw [State.stall_of_q_eq_cons hq, State.stall_of_q_eq_cons (by rw [State.tick_q, hq]; rfl), InFlight.tick_wait]
    have hx : x.wait ≠ 0 := fun h0 => by simp [State.offered_of_q_eq_cons hq, h0] at ho
    omega

/-- The host loop's next edge: no reset, a host ready for a response, and its duties kept. -/
theorem HostSide.nextEvent_of_script_nil {h : HostSide} (hs : h.script = []) :
    ∃ e, h.nextEvent = .edge e ∧ e.rst = false ∧ e.rspReady = true ∧ (e.cmdValid = true → e.cmdData ≠ none) ∧
      dutyBroken h.held e = none := by
  cases hp : h.pending with
  | nil =>
    have hheld : h.held = none := Option.toList_eq_nil_iff.mp (List.append_eq_nil_iff.mp hp).1
    exact ⟨idleEdge, HostSide.nextEvent_of_pending_nil hs hp, rfl, rfl, nofun, by rw [hheld]; rfl⟩
  | cons cmd rest =>
    refine ⟨offerEdge cmd, HostSide.nextEvent_of_pending_cons hs hp, rfl, rfl, fun _ => nofun, ?_⟩
    exact (dutyBroken_eq_none_iff ..).mpr ((HostSide.held_of_pending_cons hp).imp_right fun h => ⟨cmd, h, rfl, rfl⟩)

/-- An edge of the host loop, with something left to do, does some of it or shortens the stall. -/
theorem hostLoop_step {s : State} (hI : s.Inv) (hs : s.host.script = []) (hleft : s.host.pending = [] → s.q ≠ []) :
    ∃ t, step s = .next t ∧ t.host.issued ++ t.host.pending = s.host.issued ++ s.host.pending ∧
      Prod.Lex (· < ·) (· < ·) (t.work, t.stall) (s.work, s.stall) := by
  obtain ⟨e, he, hrst, hrdy, hdata, hduty⟩ := HostSide.nextEvent_of_script_nil hs
  obtain ⟨s', hs'⟩ := hI.advance.clockEdge_next hdata (by simpa using hduty)
  have hstep : step s = .next s' := (step_of_edge he).trans hs'
  obtain ⟨t, u, hc, hu, rfl⟩ := turns_of_step he hrst hstep
  rw [hrdy] at hu
  obtain ⟨hcommands, hcase⟩ := hc.hostLoop hs he
  refine ⟨u.tick, hstep, by rw [State.tick_host, hu.issued, hu.pending, hcommands], ?_⟩
  have hwork : u.work = 2 * t.host.pending.length + u.q.length := by rw [State.work, hu.pending]
  rw [Prod.lex_def, State.work_tick, hwork]
  rcases hcase with ⟨hpend, hq⟩ | ⟨hpend, hq, hready⟩
  case inl =>
    refine .inl ?_
    have : u.q.length ≤ t.q.length := by rcases hu.queue_cases with ⟨-, h⟩ | h <;> [rw [h]; omega]
    simp only [State.work]
    omega
  case inr =>
    rcases hu.queue_cases with ⟨ho, hqu⟩ | hqu
    · refine .inr ⟨by simp only [State.work, hpend, hqu, hq], ?_⟩
      have hqs : u.q = s.q := hqu.trans hq
      have hws : u.readyWait = s.readyWait := hu.readyWait.trans hc.readyWait
      rw [← State.stall_congr hqs hws]
      refine State.stall_tick_lt (by rw [hu.of_offered_none ho]; exact ho) fun hnil => ?_
      rw [hqs] at hnil
      rw [hws]
      refine State.readyWait_ne_zero (hready fun hp => hleft hp hnil) ?_
      rw [hnil]
      exact Nat.succ_pos _
    · refine .inl ?_
      simp only [State.work, hpend, ← hq]
      omega

/-- R29, R52: so the host loop comes to its end, with nothing pending and nothing in flight. -/
theorem hostLoop_ends (s : State) (hI : s.Inv) (hs : s.host.script = []) :
    ∃ n s', runEdges n s = .next s' ∧ s'.Inv ∧ s'.q = [] ∧ s'.host.pending = [] ∧
      s'.host.issued = s.host.issued ++ s.host.pending := by
  by_cases hend : s.host.pending = [] ∧ s.q = []
  · exact ⟨0, s, rfl, hI, hend.2, hend.1, by rw [hend.1, List.append_nil]⟩
  · obtain ⟨t, ht, hcommands, hlt⟩ := hostLoop_step hI hs fun hp hq => hend ⟨hp, hq⟩
    have hst : t.host.script = [] := by rw [step_script ht, hs]; rfl
    obtain ⟨n, s', hrun, hI', hq, hp, hissued⟩ := hostLoop_ends t (hI.step ht) hst
    exact ⟨n + 1, s', (runEdges_succ_iff ..).mpr ⟨t, ht, hrun⟩, hI', hq, hp, hissued.trans hcommands⟩
termination_by (s.work, s.stall)
decreasing_by exact hlt

/-- Settles O49: at the loop's end the invariant's order says that the responses are those of the commands. -/
theorem theHostLoopDrains : Obligations.TheHostLoopDrains := by
  intro s hI hs
  obtain ⟨n, s', hrun, hI', hq, hp, hissued⟩ := hostLoop_ends s hI hs
  obtain ⟨hheld, hprog⟩ := List.append_eq_nil_iff.mp hp
  rw [Option.toList_eq_nil_iff] at hheld
  refine ⟨n, s', hrun, by simp [State.drained, hq, hheld], hprog, ?_, ?_⟩
  · rw [hissued, HostSide.pending, List.append_assoc]
  · simpa [hq] using hI'.order

end Sys2Proof.Machine
end

section
/-! PROOFS. The command channel: what is accepted and when, and the cycles after a reset in which nothing is. -/

namespace Sys2Proof.Machine

/-- Settles O16, by `runCommand_eq_blockFunction`. -/
theorem everyCommandIsAnsweredByTheBlockFunction : Obligations.EveryCommandIsAnsweredByTheBlockFunction :=
  fun cmd s hr => ⟨_, runCommand_eq_blockFunction cmd s, s.answered_issue cmd _ hr⟩

/-- Settles O14: a command offered to a block that is not ready is held. -/
theorem commandsWaitWhileTheBlockIsNotReady : Obligations.CommandsWaitWhileTheBlockIsNotReady := by
  intro i s hr
  rw [exec_eq_blockFunction, State.issue_of_not_ready _ _ _ hr]
  rfl

/-- R43, R103: the digits of a Word below 45 are the Word and two zeros. -/
theorem enc16_of_digit (i : Digit) : enc16 (BitVec.ofNat 16 i.val) = { c := i, d := 0, e := 0 } := by
  have h := enc16_weightedSum i 0 0 (by simp [weightedSum]; omega)
  simpa [weightedSum] using h

theorem blockFunction_encw_digit (rom : Vector Byte 45) (i : Digit) :
    blockFunction rom (encode (.encw (BitVec.ofNat 16 i.val))) = 0x0#4 ++ 0x1#4 ++ rom[i] ++ rom[0] ++ rom[0] := by
  rw [blockFunction_encw, enc16_of_digit, ← cat_lanes, cmdOp_encode_encw]
  rfl

/-- Settles O32: every turn of an edge keeps the ROM, and the digits of ENCW's Word are itself and two zeros. -/
theorem nothingWritesTheRomAndEncwReadsIt : Obligations.NothingWritesTheRomAndEncwReadsIt := by
  refine ⟨fun s s' h => step_rom h, fun s i hr => ⟨_, exec_eq_blockFunction _ s, ?_⟩⟩
  rw [blockFunction_encw_digit]
  exact s.answered_issue _ _ hr

/-- Settles O38: with room and `rst = 0`, `cmd_ready` is high exactly when the free wait is 0. -/
theorem cmdReadyIsLowWhenFullOrInReset : Obligations.CmdReadyIsLowWhenFullOrInReset := by
  refine fun s => ⟨fun hfull rst => by simp [State.cmdReady, State.hasRoom, hfull], rfl, fun hroom b => ?_⟩
  cases b with
  | true => exact ⟨0, by simp [State.cmdReady, State.hasRoom, hroom]⟩
  | false => exact ⟨1, by simp [State.cmdReady]⟩

theorem cmdReady_of_readyWait_pos {s : State} (h : 0 < s.readyWait) (rst : Bool) : s.cmdReady rst = false := by
  simp [State.cmdReady, Nat.pos_iff_ne_zero.mp h]

/-- Settles O35: the fields of the reset state, and that a wait above 0 keeps `cmd_ready` low. -/
theorem resetStateIsEmptyWithItsWait : Obligations.ResetStateIsEmptyWithItsWait :=
  ⟨rfl, rfl, rfl, rfl, Nat.le_add_right .., fun _ h => cmdReady_of_readyWait_pos h false⟩

/-! ### After a reset -/

/-- R32: `cmd_ready` is low for at least `m` cycles more, and nothing has been accepted. -/
structure State.Unready (m : Nat) (s : State) : Prop where
  wait : m ≤ s.readyWait
  issued : s.host.issued = []

theorem State.unready_resetAssert (s : State) {m : Nat} (hm : m ≤ Config.readyAfterReset) : s.resetAssert.Unready m :=
  ⟨hm.trans (Nat.le_add_right ..), rfl⟩

theorem State.Unready.step {m : Nat} {s s' : State} (h : s.Unready (m + 1)) (hm : m < Config.readyAfterReset)
    (hs : step s = .next s') : s'.Unready m := by
  obtain ⟨hwait, hissued⟩ := h
  obtain ⟨e, he, ht⟩ := step_turn hs
  cases ht with
  | reset => exact s.advance.unready_resetAssert hm.le
  | run t u hrst _ hc hu =>
    have hlow : ¬ s.advance.resetRelease.Ready := by
      rw [s.ready_released_iff, cmdReady_of_readyWait_pos (by omega)]
      exact nofun
    refine ⟨by rw [readyWait_of_step he hrst hs (by omega)]; omega, ?_⟩
    rw [State.tick_host, hu.issued, hc.issued_of_not_ready hlow]
    simpa using hissued

/-- Settles O37: a reset sets the countdown, and no edge takes more than one cycle from it. -/
theorem notReadyForReadyAfterResetCycles : Obligations.NotReadyForReadyAfterResetCycles := by
  intro s s1 e he hrst hs k s2 hrun
  refine or_iff_not_imp_left.mpr fun hk => ?_
  have h1 : s1.Unready Config.readyAfterReset := by
    cases edgeTurn_of_step he hs with
    | reset => exact s.advance.unready_resetAssert le_rfl
    | run _ _ hrst' => cases hrst.symm.trans hrst'
  have hsum : Config.readyAfterReset - k + k = Config.readyAfterReset := by omega
  have h2 : s2.Unready (Config.readyAfterReset - k) :=
    runEdges_countdown (P := fun m s => s.Unready m) (fun _ _ _ hm h hs => h.step hm hs) hsum.le
      (by rwa [hsum]) hrun
  have hpos : 0 < s2.readyWait := by have := h2.wait; omega
  exact ⟨cmdReady_of_readyWait_pos hpos false, h2.issued⟩

/-! ### The handshake -/

theorem clockEdge_of_undriven {e : Edge} {s : State} (hv : e.cmdValid = true) (hd : e.cmdData = none) :
    clockEdge e s = .refused .commandUndriven := by
  simp [clockEdge, hv, hd]

theorem clockEdge_of_dutyBroken {e : Edge} {s : State} {r : Refusal} (hu : e.cmdValid = true → e.cmdData ≠ none)
    (hrst : e.rst = false) (h : dutyBroken s.host.held e = some r) : clockEdge e s = .refused r := by
  have hun : ¬ (e.cmdValid && e.cmdData.isNone) = true := by simpa using hu
  rw [clockEdge, if_neg hun, hrst, h]
  rfl

theorem dutyBroken_of_withdrawn {cmd : Cmd} {e : Edge} (hv : e.cmdValid = false) :
    dutyBroken (some cmd) e = some .commandWithdrawn := by
  simp [dutyBroken, hv]

theorem dutyBroken_of_changed {cmd cmd' : Cmd} {e : Edge} (hv : e.cmdValid = true) (hd : e.cmdData = some cmd')
    (hne : cmd' ≠ cmd) : dutyBroken (some cmd) e = some .commandChanged := by
  simp [dutyBroken, hv, hd, hne]

/-- Settles O39: the refusals by the order of `clockEdge`, the rest by the turn of the command channel. -/
theorem commandsAreAcceptedAtTheHandshake : Obligations.CommandsAreAcceptedAtTheHandshake := by
  intro s e he
  refine ⟨fun hv hd => ?_, fun cmd hheld hrst hv => ?_, fun cmd cmd' hheld hrst hv hd hne => ?_, fun s' hs hrst => ?_⟩
  · rw [step_of_edge he, clockEdge_of_undriven hv hd]
  · rw [step_of_edge he]
    exact clockEdge_of_dutyBroken (by simp [hv]) hrst (by simpa [hheld] using dutyBroken_of_withdrawn hv)
  · rw [step_of_edge he]
    exact clockEdge_of_dutyBroken (by simp [hd]) hrst (by simpa [hheld] using dutyBroken_of_changed hv hd hne)
  · obtain ⟨t, u, hc, hu, rfl⟩ := turns_of_step he hrst hs
    rw [State.tick_host, hu.held, hu.issued, hrst]
    cases hc with
    | idle hv => simp [hv]
    | accept cmd hv hd hr => simp [hv, hd, s.ready_released_iff.mp hr]
    | hold cmd hv hd hr =>
      rw [s.ready_released_iff] at hr
      simp [hv, hd, hr]

/-- Settles O34: with the duty kept, `clockEdge` runs the decoded command and finishes the edge. -/
theorem stepRunsTheDecodedCommand : Obligations.StepRunsTheDecodedCommand := by
  intro s cmd i rdy he hheld hi
  have hduty : dutyBroken s.host.held { rst := false, cmdValid := true, cmdData := some cmd, rspReady := rdy } = none :=
    (dutyBroken_eq_none_iff ..).mpr (hheld.imp_right fun h => ⟨cmd, h, rfl, rfl⟩)
  have hexec := exec_eq_blockFunction i s.advance.resetRelease
  have hrun : runCommand cmd s.advance.resetRelease = exec i s.advance.resetRelease := by simp [runCommand, hi]
  have hstep : ∀ t, exec i s.advance.resetRelease = .next t → step s = finishEdge rdy t := by
    intro t ht
    rw [step_of_edge he]
    simp [clockEdge, hduty, runEdge, commandChannel, hrun, ht]
  refine ⟨_, hexec, hstep _ hexec, fun u hu => ?_⟩
  rw [hstep _ hexec, finishEdge, hu]

end Sys2Proof.Machine
end

section
/-! PROOFS. The response channel, and the waits of both channels. -/

namespace Sys2Proof.Machine

theorem State.offered_of_rspValid {s : State} (h : s.rspValid false = true) : ∃ r, s.offered = some r :=
  Option.isSome_iff_exists.mp h

/-- Settles O40: by the turn of the response channel, on an offer that the command channel has not changed. -/
theorem responsesStayOnOfferUntilDelivered : Obligations.ResponsesStayOnOfferUntilDelivered := by
  refine ⟨fun s hv => ?_, fun s s' e he hrst hs => ?_⟩
  · obtain ⟨r, ho⟩ := State.offered_of_rspValid hv
    obtain ⟨rest, hq⟩ := State.q_of_offered ho
    exact ⟨_, rest, hq, State.rspData_of_offered ho⟩
  · obtain ⟨t, u, hc, hu, rfl⟩ := turns_of_step he hrst hs
    have hoffer : t.offered = s.offered := hc.offered
    have hreceived : t.host.received = s.host.received := by rw [hc.received]; simp
    rw [hrst]
    refine ⟨fun hv hrdy => ?_, fun hv hrdy => ?_, fun hv => ?_⟩
    · obtain ⟨r, ho⟩ := State.offered_of_rspValid hv
      rw [hrdy] at hu
      rw [hu.of_offered_some (hoffer.trans ho), State.rspData_of_offered ho]
      simp [hreceived]
    · obtain ⟨r, ho⟩ := State.offered_of_rspValid hv
      rw [hrdy] at hu
      have hstays : (t.see (some r)).tick.offered = some r := State.offered_tick (hoffer.trans ho)
      rw [hu.of_not_ready (hoffer.trans ho), State.rspData_of_offered ho]
      exact ⟨hreceived, by simp [hstays], State.rspData_of_offered hstays⟩
    · have ho : s.offered = none := by simpa using hv
      rw [hu.of_offered_none (hoffer.trans ho)]
      exact hreceived

/-! ### The host's events -/

/-- What holds of the next `n + 1` events of the script, and of the edges of the host loop, holds of the next event. -/
theorem HostSide.nextEvent_of_take {p : HostEvent → Bool} (hoffer : ∀ cmd, p (.edge (offerEdge cmd)) = true)
    (hidle : p (.edge idleEdge) = true) {h : HostSide} {n : Nat}
    (hp : ∀ ev ∈ h.script.take (n + 1), p ev = true) : p h.nextEvent = true := by
  cases hs : h.script with
  | cons ev rest =>
    rw [HostSide.nextEvent_of_script h ev rest hs]
    exact hp ev (by simp [hs])
  | nil =>
    cases hpend : h.pending with
    | nil => rw [HostSide.nextEvent_of_pending_nil hs hpend]; exact hidle
    | cons cmd rest => rw [HostSide.nextEvent_of_pending_cons hs hpend]; exact hoffer cmd

/-- What holds of the next `n + 1` events of the script holds of the next `n` after a step. -/
theorem take_script_of_step {p : HostEvent → Bool} {s s' : State} {n : Nat}
    (hp : ∀ ev ∈ s.host.script.take (n + 1), p ev = true) (h : step s = .next s') :
    ∀ ev ∈ s'.host.script.take n, p ev = true := by
  rw [step_script h]
  cases hs : s.host.script with
  | nil => simp
  | cons ev rest => exact fun ev' hev => hp ev' (by rw [hs]; exact List.mem_cons_of_mem ev hev)

/-! ### The waits -/

/-- R30: the countdown of `cmd_ready` stands at `m`, and the host does not reset before it is over. -/
structure State.ReadyIn (m : Nat) (s : State) : Prop where
  wait : s.readyWait = m
  noReset : ∀ ev ∈ s.host.script.take m, ev.noReset = true

theorem State.ReadyIn.step {m : Nat} {s s' : State} (h : s.ReadyIn (m + 1)) (hs : step s = .next s') : s'.ReadyIn m := by
  obtain ⟨e, he, -⟩ := step_turn hs
  have hrst : e.rst = false := by
    have := HostSide.nextEvent_of_take (p := HostEvent.noReset) (fun _ => rfl) rfl h.noReset
    simpa [he, HostEvent.noReset] using this
  refine ⟨?_, take_script_of_step h.noReset hs⟩
  rw [readyWait_of_step he hrst hs (by rw [h.wait]; exact Nat.succ_ne_zero m), h.wait]
  rfl

/-- R22, R31: a host that takes what is offered gets the head of `Q` at an edge if its wait is over, and else finds it
at the head one cycle nearer. -/
theorem head_of_step {s s' : State} {x : InFlight} {rest : List InFlight} (hq : s.q = x :: rest)
    (htakes : s.host.nextEvent.takes = true) (hs : step s = .next s') :
    if x.wait = 0 then s'.host.received = s.host.received ++ [x.rsp]
    else s'.host.received = s.host.received ∧ ∃ rest', s'.q = x.tick :: rest' := by
  obtain ⟨e, he, -⟩ := step_turn hs
  obtain ⟨hrst, hrdy⟩ : e.rst = false ∧ e.rspReady = true := by simpa [he, HostEvent.takes] using htakes
  obtain ⟨t, u, hc, hu, rfl⟩ := turns_of_step he hrst hs
  have hoffer : t.offered = if x.wait = 0 then some x.rsp else none := hc.offered.trans (State.offered_of_q_eq_cons hq)
  have hreceived : t.host.received = s.host.received := by rw [hc.received]; simp
  rw [hrdy] at hu
  split
  · next hw =>
    rw [if_pos hw] at hoffer
    rw [hu.of_offered_some hoffer]
    simp [hreceived]
  · next hw =>
    rw [if_neg hw] at hoffer
    rw [hu.of_offered_none hoffer]
    obtain ⟨rest', htq⟩ := hc.head hq
    exact ⟨hreceived, rest'.map InFlight.tick, by simp [htq]⟩

/-- R29: the head of `Q` is received once its wait is over. -/
theorem head_received {w : Nat} {s s' : State} {x : InFlight} {rest : List InFlight} (hq : s.q = x :: rest)
    (hw : x.wait = w) (htakes : ∀ ev ∈ s.host.script.take (w + 1), ev.takes = true)
    (hrun : runEdges (w + 1) s = .next s') : s'.host.received = s.host.received ++ [x.rsp] := by
  induction w generalizing s x rest with
  | zero =>
    obtain ⟨t, ht, hrun⟩ := (runEdges_succ_iff ..).mp hrun
    cases hrun
    have hnext := HostSide.nextEvent_of_take (p := HostEvent.takes) (fun _ => rfl) rfl htakes
    simpa [hw] using head_of_step hq hnext ht
  | succ w ih =>
    obtain ⟨t, ht, hrun⟩ := (runEdges_succ_iff ..).mp hrun
    have hnext := HostSide.nextEvent_of_take (p := HostEvent.takes) (fun _ => rfl) rfl htakes
    obtain ⟨hreceived, rest', htq⟩ : t.host.received = s.host.received ∧ ∃ rest', t.q = x.tick :: rest' := by
      simpa [hw] using head_of_step hq hnext ht
    rw [← hreceived]
    exact ih (x := x.tick) htq (by simp [hw]) (take_script_of_step htakes ht) hrun

/-- Settles O48: `cmd_ready` by counting down, the head of `Q` by induction on its wait. -/
theorem waitsEndWithNoReset : Obligations.WaitsEndWithNoReset := by
  refine ⟨fun s s' hscript hrun => ?_, fun s s' x rest hq hscript hrun => ⟨[], head_received hq rfl hscript hrun⟩⟩
  have hready : s'.ReadyIn 0 :=
    runEdges_countdown (P := fun m s => s.ReadyIn m) (fun _ _ _ _ h hs => h.step hs) le_rfl
      (by rw [Nat.zero_add]; exact ⟨rfl, hscript⟩) hrun
  exact ⟨hready.wait, fun hroom => by simp [State.cmdReady, State.hasRoom, hready.wait, hroom]⟩

end Sys2Proof.Machine
end

section
/-! PROOFS. What a whole run, or a single command, keeps: the order of the responses (R47), and the independence of the
commands of one another (R49). -/

namespace Sys2Proof.Machine

/-- What every step keeps, every run keeps. -/
theorem runEdges_keeps {P : State → Prop} (hstep : ∀ s s', P s → step s = .next s' → P s') {n : Nat} {s s' : State}
    (hP : P s) (h : runEdges n s = .next s') : P s' := by
  induction n generalizing s with
  | zero => cases h; exact hP
  | succ n ih =>
    obtain ⟨t, ht, h⟩ := (runEdges_succ_iff ..).mp h
    exact ih (hstep s t hP ht) h

theorem State.Inv.run {n : Nat} {s s' : State} (h : s.Inv) (hrun : runEdges n s = .next s') : s'.Inv :=
  runEdges_keeps (fun _ _ hI hs => hI.step hs) h hrun

/-- R47: the responses in flight are what the received ones still lack. -/
theorem State.Inv.received_initial {s : State} (h : s.Inv) :
    s.host.received <+: s.host.issued.map (blockFunction alphabet) :=
  ⟨_, h.order⟩

theorem State.Inv.received_of_q_eq_nil {s : State} (h : s.Inv) (hq : s.q = []) :
    s.host.received = s.host.issued.map (blockFunction alphabet) := by
  simpa [hq] using h.order

/-- Settles O47: a run keeps the invariant, whose order is the statement. -/
theorem responsesComeInAcceptanceOrder : Obligations.ResponsesComeInAcceptanceOrder := by
  intro n s s' hI hrun
  have hI' : s'.Inv := hI.run hrun
  exact ⟨hI'.received_initial, hI'.received_of_q_eq_nil⟩

/-- Settles O15: a command is issued with its response, so it is accepted or held. -/
theorem commandsLeaveTheRestUnchanged : Obligations.CommandsLeaveTheRestUnchanged := by
  intro i s s' h
  rw [exec_eq_blockFunction] at h
  cases h
  rcases s.issue_cases (encode i) (blockFunction s.rom (encode i)) with ⟨-, haccept⟩ | ⟨-, hhold⟩
  · rw [haccept]
    exact ⟨rfl, rfl, rfl, rfl, rfl, rfl, rfl, rfl, .inr ⟨_, rfl, rfl, rfl⟩⟩
  · rw [hhold]
    exact ⟨rfl, rfl, rfl, rfl, rfl, rfl, rfl, rfl, .inl ⟨rfl, rfl, rfl⟩⟩

/-- Settles O20: in either state the response is the block function of the word and the common ROM. -/
theorem responsesDependOnlyOnTheirCommand : Obligations.ResponsesDependOnlyOnTheirCommand := by
  intro cmd s t hs ht hrom
  refine ⟨blockFunction s.rom cmd, _, _, runCommand_eq_blockFunction cmd s, runCommand_eq_blockFunction cmd t,
    s.answered_issue cmd _ hs, ?_⟩
  rw [hrom]
  exact t.answered_issue cmd _ ht

end Sys2Proof.Machine
end

section
/-! PROOFS. The alphabet in both directions (R40 to R42), and the byte order of a group (R45). -/

namespace Sys2Proof.Machine

/-! ### The ROM's contents in closed form -/

theorem alphabet_of_digit : ∀ i : Digit, i.val ≤ 9 → alphabet[i].toNat = 0x30 + i.val := by decide

theorem alphabet_of_letter : ∀ i : Digit, 10 ≤ i.val → i.val ≤ 35 → alphabet[i].toNat = 0x37 + i.val := by decide

/-- R40: the nine codes that are neither a digit nor a letter. -/
def symbolCodes : List Byte := [0x20, 0x24, 0x25, 0x2A, 0x2B, 0x2D, 0x2E, 0x2F, 0x3A]

theorem alphabet_of_symbol : ∀ i : Digit, 36 ≤ i.val → alphabet[i] ∈ symbolCodes := by decide

/-- R41: each of the nine codes stands at its place from 36 on. -/
theorem alphabet_symbol_index : ∀ p ∈ symbolCodes.zipIdx 36, ∃ i : Digit, i.val = p.2 ∧ alphabet[i] = p.1 := by decide

/-- Settles O29: the ROM after reset is the alphabet. -/
theorem romHoldsTheAlphabet : Obligations.RomHoldsTheAlphabet :=
  ⟨alphabet_of_digit, alphabet_of_letter, rfl⟩

/-! ### The inverse -/

theorem alphaInv_alphabet : ∀ i : Digit, alphaInv alphabet alphabet[i] = some i := by decide

theorem alphabet_injective {i j : Digit} (h : alphabet[i] = alphabet[j]) : i = j := by
  have hi := alphaInv_alphabet i
  rw [h, alphaInv_alphabet] at hi
  exact (Option.some.inj hi).symm

theorem alphaInv_alphabet_eq_some_iff (ch : Lane) (i : Digit) : alphaInv alphabet ch = some i ↔ alphabet[i] = ch := by
  refine ⟨alpha_of_alphaInv, ?_⟩
  rintro rfl
  exact alphaInv_alphabet i

/-- Settles O31: the two directions, and that an entry with an index found again is no other entry. -/
theorem alphabetLaws : Obligations.AlphabetLaws :=
  ⟨fun _ _ h => alphabet_injective h, alphaInv_alphabet, fun _ _ h => alpha_of_alphaInv h⟩

/-- R41: an index known as a number is the one that is found. -/
theorem alphaInv_val_of_alphabet_eq {ch : Lane} {n : Nat} (h : ∃ i : Digit, i.val = n ∧ alphabet[i] = ch) :
    (alphaInv alphabet ch).map Fin.val = some n := by
  obtain ⟨i, rfl, hi⟩ := h
  rw [(alphaInv_alphabet_eq_some_iff ch i).mpr hi]
  rfl

theorem alphaInv_of_digit {ch : Lane} (h : 0x30 ≤ ch.toNat ∧ ch.toNat ≤ 0x39) :
    (alphaInv alphabet ch).map Fin.val = some (ch.toNat - 0x30) := by
  have hle : ch.toNat - 0x30 ≤ 9 := by omega
  refine alphaInv_val_of_alphabet_eq ⟨⟨ch.toNat - 0x30, by omega⟩, rfl, BitVec.eq_of_toNat_eq ?_⟩
  exact (alphabet_of_digit _ hle).trans (Nat.add_sub_of_le h.1)

theorem alphaInv_of_letter {ch : Lane} (h : 0x41 ≤ ch.toNat ∧ ch.toNat ≤ 0x5A) :
    (alphaInv alphabet ch).map Fin.val = some (ch.toNat - 0x37) := by
  have hge : 10 ≤ ch.toNat - 0x37 := by omega
  have hle : ch.toNat - 0x37 ≤ 35 := by omega
  refine alphaInv_val_of_alphabet_eq ⟨⟨ch.toNat - 0x37, by omega⟩, rfl, BitVec.eq_of_toNat_eq ?_⟩
  exact (alphabet_of_letter _ hge hle).trans (Nat.add_sub_of_le (by omega))

/-- R41: a code that is none of the three kinds has no index, because each entry of the ROM is of one of them. -/
theorem alphaInv_eq_none_of_other {ch : Lane} (hdigit : ¬ (0x30 ≤ ch.toNat ∧ ch.toNat ≤ 0x39))
    (hletter : ¬ (0x41 ≤ ch.toNat ∧ ch.toNat ≤ 0x5A)) (hsymbol : ch ∉ symbolCodes) :
    alphaInv alphabet ch = none := by
  refine (alphaInv_eq_none_iff alphabet ch).mpr fun i hi => ?_
  obtain rfl : alphabet[i] = ch := hi
  rcases Nat.lt_or_ge i.val 10 with h9 | h10
  · have := alphabet_of_digit i (by omega)
    omega
  · rcases Nat.lt_or_ge i.val 36 with h35 | h36
    · have := alphabet_of_letter i h10 (by omega)
      omega
    · exact hsymbol (alphabet_of_symbol i h36)

theorem isSome_alphaInv_iff (ch : Lane) : (alphaInv alphabet ch).isSome = true ↔ ∃ i : Digit, alphabet[i] = ch := by
  rw [Option.isSome_iff_exists]
  exact exists_congr fun i => alphaInv_alphabet_eq_some_iff ch i

/-- R41: the codes with an index are the 45 entries of the ROM, which are distinct. -/
theorem codes_with_index_perm :
    ((List.range 256).filter fun n => (alphaInv alphabet (BitVec.ofNat 8 n)).isSome).Perm
      ((List.finRange 45).map fun i => alphabet[i].toNat) := by
  refine (List.perm_ext_iff_of_nodup (List.nodup_range.filter _) ?_).mpr fun n => ?_
  · exact (List.nodup_finRange 45).map fun _ _ h => alphabet_injective (BitVec.eq_of_toNat_eq h)
  · simp only [List.mem_filter, List.mem_range, isSome_alphaInv_iff, List.mem_map, List.mem_finRange, true_and]
    constructor
    · rintro ⟨hn, i, hi⟩
      exact ⟨i, by rw [hi]; exact Nat.mod_eq_of_lt hn⟩
    · rintro ⟨i, rfl⟩
      exact ⟨alphabet[i].isLt, i, by simp⟩

/-- Settles O30: by the inverse of each kind of code. -/
theorem alphabetInverseIsTheClosedForm : Obligations.AlphabetInverseIsTheClosedForm := by
  refine ⟨by simpa using codes_with_index_perm.length_eq, fun ch => ⟨alphaInv_alphabet_eq_some_iff ch,
    alphaInv_of_digit, alphaInv_of_letter, ?_, alphaInv_eq_none_of_other⟩⟩
  rintro p hp rfl
  exact alphaInv_val_of_alphabet_eq (alphabet_symbol_index p hp)

/-! ### The byte order -/

theorem toNat_wordOfBytes (byte0 byte1 : Byte) :
    (wordOfBytes byte0 byte1).toNat = byte0.toNat * 256 + byte1.toNat := toNat_cat ..

/-- Settles O33: the high and the low byte are the quotient and the remainder by 256. -/
theorem groupsAreBigEndian : Obligations.GroupsAreBigEndian := by
  intro byte0 byte1
  have hword := toNat_wordOfBytes byte0 byte1
  have hlow := byte1.isLt
  refine ⟨hword, ?_, ?_⟩
  · rw [BitVec.toNat_ushiftRight, Nat.shiftRight_eq_div_pow, hword]
    omega
  · have hmask : (0xFF#16).toNat = 2 ^ 8 - 1 := rfl
    rw [BitVec.toNat_and, hmask, Nat.and_two_pow_sub_one_eq_mod, hword]
    omega

end Sys2Proof.Machine
end

section
/-! PROOFS. The decoder, the opcode table's rows and LEGAL (R60 to R66): all three speak of the same fields of a
word. -/

namespace Sys2Proof

/-! ### The decoder, one equation for each command -/

section
variable {cmd : Cmd} (hrsv : cmdRsv cmd = 0#4)
include hrsv

theorem decode_encw_of_fields (hop : cmdOp cmd = 0x1#4) (hhi : laneHi cmd = 0#8) :
    decode cmd = .ok (.encw (opndWord cmd)) := by simp [decode, hrsv, hop, hhi]

theorem decode_encb_of_fields (hop : cmdOp cmd = 0x2#4) (hhi : laneHi cmd = 0#8) (hmid : laneMid cmd = 0#8) :
    decode cmd = .ok (.encb (opndByte cmd)) := by simp [decode, hrsv, hop, hhi, hmid]

theorem decode_dect_of_fields (hop : cmdOp cmd = 0x3#4) :
    decode cmd = .ok (.dect (laneHi cmd) (laneMid cmd) (laneLo cmd)) := by simp [decode, hrsv, hop]

theorem decode_decp_of_fields (hop : cmdOp cmd = 0x4#4) (hhi : laneHi cmd = 0#8) :
    decode cmd = .ok (.decp (laneMid cmd) (laneLo cmd)) := by simp [decode, hrsv, hop, hhi]

theorem decode_encwd_of_fields (hop : cmdOp cmd = 0x9#4) (hhi : laneHi cmd = 0#8) :
    decode cmd = .ok (.encwd (opndWord cmd)) := by simp [decode, hrsv, hop, hhi]

theorem decode_encbd_of_fields (hop : cmdOp cmd = 0xA#4) (hhi : laneHi cmd = 0#8) (hmid : laneMid cmd = 0#8) :
    decode cmd = .ok (.encbd (opndByte cmd)) := by simp [decode, hrsv, hop, hhi, hmid]

theorem decode_dectd_of_fields (hop : cmdOp cmd = 0xB#4) :
    decode cmd = .ok (.dectd (laneHi cmd) (laneMid cmd) (laneLo cmd)) := by simp [decode, hrsv, hop]

theorem decode_decpd_of_fields (hop : cmdOp cmd = 0xC#4) (hhi : laneHi cmd = 0#8) :
    decode cmd = .ok (.decpd (laneMid cmd) (laneLo cmd)) := by simp [decode, hrsv, hop, hhi]

end

/-- R60, R61: the fields of a command's encoding are those of its row, its operands in their places. -/
theorem decode_encode (i : Instr) : decode (encode i) = .ok i := by
  cases i with
  | encw w => simp [decode_encw_of_fields]
  | encb b => simp [decode_encb_of_fields]
  | dect l1 l2 l3 => simp [decode_dect_of_fields]
  | decp l1 l2 => simp [decode_decp_of_fields]
  | encwd w => simp [decode_encwd_of_fields]
  | encbd b => simp [decode_encbd_of_fields]
  | dectd l1 l2 l3 => simp [decode_dectd_of_fields]
  | decpd l1 l2 => simp [decode_decpd_of_fields]

/-- Settles O2: the decoder's equation for the command's row. -/
theorem decodeOfEncodeIsTheCommand : Obligations.DecodeOfEncodeIsTheCommand := decode_encode

/-- Settles O3: the fields of a word that decodes add up to the word. -/
theorem encodeOfDecodeIsTheWord : Obligations.EncodeOfDecodeIsTheWord := fun _ _ h => encode_of_decode h

/-- Settles O1: eight closed words. -/
theorem wordsOfTheEncodingsDecode : Obligations.WordsOfTheEncodingsDecode := by
  refine ⟨?_, ?_, ?_, ?_, ?_, ?_, ?_, ?_⟩ <;> decide

/-! ### LEGAL -/

theorem opnd_hi_mid_eq (cmd : Cmd) : (cmdOpnd cmd).extractLsb' 8 16 = cmd.extractLsb' 8 16 := by
  apply BitVec.eq_of_toNat_eq; rw [toNat_field, cmdOpnd_toNat, toNat_field]; omega

/-- R66: LEGAL as the rule's case list. -/
theorem legal_iff_cases (cmd : Cmd) :
    legal cmd = true ↔
      cmdRsv cmd = 0#4 ∧
        ((cmdOp cmd ∈ [0x1#4, 0x9#4, 0x4#4, 0xC#4] ∧ laneHi cmd = 0#8) ∨
          (cmdOp cmd ∈ [0x2#4, 0xA#4] ∧ cmd.extractLsb' 8 16 = 0#16) ∨ cmdOp cmd ∈ [0x3#4, 0xB#4]) := by
  unfold legal
  rw [Bool.and_eq_true, beq_iff_eq, opnd_hi_eq, opnd_hi_mid_eq]
  refine and_congr_right fun _ => ?_
  split
  case h_9 => simp_all
  all_goals next hop => simp [hop]

/-! ### The rows of the opcode table -/

theorem mask_24_eq_iff (cmd : Cmd) (op : BitVec 4) :
    cmd &&& 0xFF000000#32 = (op ++ 0#28 : Cmd) ↔ cmdRsv cmd = 0#4 ∧ cmdOp cmd = op := by
  simp only [← BitVec.toNat_inj, toNat_mask_24, toNat_cat, cmdRsv_toNat, cmdOp_toNat, BitVec.toNat_ofNat]
  have := op.isLt
  have := cmd.isLt
  omega

theorem mask_16_eq_iff (cmd : Cmd) (op : BitVec 4) :
    cmd &&& 0xFFFF0000#32 = (op ++ 0#28 : Cmd) ↔ cmdRsv cmd = 0#4 ∧ cmdOp cmd = op ∧ laneHi cmd = 0#8 := by
  simp only [← BitVec.toNat_inj, toNat_mask_16, toNat_cat, cmdRsv_toNat, cmdOp_toNat, laneHi_toNat,
    BitVec.toNat_ofNat]
  have := op.isLt
  have := cmd.isLt
  omega

theorem mask_8_eq_iff (cmd : Cmd) (op : BitVec 4) :
    cmd &&& 0xFFFFFF00#32 = (op ++ 0#28 : Cmd) ↔
      cmdRsv cmd = 0#4 ∧ cmdOp cmd = op ∧ laneHi cmd = 0#8 ∧ laneMid cmd = 0#8 := by
  simp only [← BitVec.toNat_inj, toNat_mask_8, toNat_cat, cmdRsv_toNat, cmdOp_toNat, laneHi_toNat, laneMid_toNat,
    BitVec.toNat_ofNat]
  have := op.isLt
  have := cmd.isLt
  omega

theorem OpcodeRow.matches_iff (row : OpcodeRow) (cmd : Cmd) :
    row.matches cmd = true ↔ cmd &&& row.mask = row.pattern := beq_iff_eq

/-- R61, R66: a word that a row matches decodes to a command of that row. -/
theorem decode_of_matches {row : OpcodeRow} (hrow : row ∈ opcodeTable) {cmd : Cmd} (h : row.matches cmd = true) :
    ∃ i, decode cmd = .ok i ∧ row.mnemonic = i.mnemonic := by
  rw [OpcodeRow.matches_iff] at h
  simp only [opcodeTable, List.mem_cons, List.not_mem_nil, or_false] at hrow
  rcases hrow with rfl | rfl | rfl | rfl | rfl | rfl | rfl | rfl
  · obtain ⟨hrsv, hop, hhi⟩ := (mask_16_eq_iff cmd 0x1#4).mp h
    exact ⟨_, decode_encw_of_fields hrsv hop hhi, rfl⟩
  · obtain ⟨hrsv, hop, hhi, hmid⟩ := (mask_8_eq_iff cmd 0x2#4).mp h
    exact ⟨_, decode_encb_of_fields hrsv hop hhi hmid, rfl⟩
  · obtain ⟨hrsv, hop⟩ := (mask_24_eq_iff cmd 0x3#4).mp h
    exact ⟨_, decode_dect_of_fields hrsv hop, rfl⟩
  · obtain ⟨hrsv, hop, hhi⟩ := (mask_16_eq_iff cmd 0x4#4).mp h
    exact ⟨_, decode_decp_of_fields hrsv hop hhi, rfl⟩
  · obtain ⟨hrsv, hop, hhi⟩ := (mask_16_eq_iff cmd 0x9#4).mp h
    exact ⟨_, decode_encwd_of_fields hrsv hop hhi, rfl⟩
  · obtain ⟨hrsv, hop, hhi, hmid⟩ := (mask_8_eq_iff cmd 0xA#4).mp h
    exact ⟨_, decode_encbd_of_fields hrsv hop hhi hmid, rfl⟩
  · obtain ⟨hrsv, hop⟩ := (mask_24_eq_iff cmd 0xB#4).mp h
    exact ⟨_, decode_dectd_of_fields hrsv hop, rfl⟩
  · obtain ⟨hrsv, hop, hhi⟩ := (mask_16_eq_iff cmd 0xC#4).mp h
    exact ⟨_, decode_decpd_of_fields hrsv hop hhi, rfl⟩

/-- R61, R66: the row of a command matches its encoding. -/
theorem exists_row_matches_encode (i : Instr) :
    ∃ row ∈ opcodeTable, row.matches (encode i) = true ∧ row.mnemonic = i.mnemonic := by
  simp only [OpcodeRow.matches_iff]
  cases i with
  | encw w => exact ⟨opcodeTable[0], List.getElem_mem _, (mask_16_eq_iff _ 0x1#4).mpr (by simp), rfl⟩
  | encb b => exact ⟨opcodeTable[1], List.getElem_mem _, (mask_8_eq_iff _ 0x2#4).mpr (by simp), rfl⟩
  | dect l1 l2 l3 => exact ⟨opcodeTable[2], List.getElem_mem _, (mask_24_eq_iff _ 0x3#4).mpr (by simp), rfl⟩
  | decp l1 l2 => exact ⟨opcodeTable[3], List.getElem_mem _, (mask_16_eq_iff _ 0x4#4).mpr (by simp), rfl⟩
  | encwd w => exact ⟨opcodeTable[4], List.getElem_mem _, (mask_16_eq_iff _ 0x9#4).mpr (by simp), rfl⟩
  | encbd b => exact ⟨opcodeTable[5], List.getElem_mem _, (mask_8_eq_iff _ 0xA#4).mpr (by simp), rfl⟩
  | dectd l1 l2 l3 => exact ⟨opcodeTable[6], List.getElem_mem _, (mask_24_eq_iff _ 0xB#4).mpr (by simp), rfl⟩
  | decpd l1 l2 => exact ⟨opcodeTable[7], List.getElem_mem _, (mask_16_eq_iff _ 0xC#4).mpr (by simp), rfl⟩

theorem exists_row_of_decode {cmd : Cmd} {i : Instr} (h : decode cmd = .ok i) :
    ∃ row ∈ opcodeTable, row.matches cmd = true ∧ row.mnemonic = i.mnemonic :=
  encode_of_decode h ▸ exists_row_matches_encode i

theorem opcodeTable_mnemonic_injective :
    ∀ r₁ ∈ opcodeTable, ∀ r₂ ∈ opcodeTable, r₁.mnemonic = r₂.mnemonic → r₁ = r₂ := by decide

/-- R66: at most one row matches a word, the row of the command it decodes to. -/
theorem row_unique {cmd : Cmd} {r₁ r₂ : OpcodeRow} (h₁ : r₁ ∈ opcodeTable) (h₂ : r₂ ∈ opcodeTable)
    (hm₁ : r₁.matches cmd = true) (hm₂ : r₂.matches cmd = true) : r₁ = r₂ := by
  obtain ⟨i, hi, hn₁⟩ := decode_of_matches h₁ hm₁
  obtain ⟨j, hj, hn₂⟩ := decode_of_matches h₂ hm₂
  obtain rfl : i = j := Except.ok.inj (hi.symm.trans hj)
  exact opcodeTable_mnemonic_injective r₁ h₁ r₂ h₂ (hn₁.trans hn₂.symm)

theorem legal_iff_decode (cmd : Cmd) : legal cmd = true ↔ ∃ i, decode cmd = .ok i := by
  refine ⟨decode_of_legal, ?_⟩
  rintro ⟨i, hi⟩
  exact encode_of_decode hi ▸ Machine.legal_encode i

theorem legal_iff_matches (cmd : Cmd) : legal cmd = true ↔ ∃ row ∈ opcodeTable, row.matches cmd = true := by
  rw [legal_iff_decode]
  constructor
  · rintro ⟨i, hi⟩
    obtain ⟨row, hrow, hm, -⟩ := exists_row_of_decode hi
    exact ⟨row, hrow, hm⟩
  · rintro ⟨row, hrow, hm⟩
    obtain ⟨i, hi, -⟩ := decode_of_matches hrow hm
    exact ⟨i, hi⟩

/-- Settles O4: the rows, LEGAL and the decoder check the same fields of a word. -/
theorem legalWordsMatchExactlyOneRow : Obligations.LegalWordsMatchExactlyOneRow := fun cmd =>
  ⟨legal_iff_cases cmd, legal_iff_matches cmd, fun _ h₁ _ h₂ => row_unique h₁ h₂, legal_iff_decode cmd,
    fun _ => exists_row_of_decode⟩

namespace Machine

/-- Settles O17: the response is the block function, which echoes the op. -/
theorem responsesEchoTheirOp : Obligations.ResponsesEchoTheirOp := fun cmd s hr =>
  ⟨_, _, runCommand_eq_blockFunction cmd s, s.answered_issue cmd _ hr, rspOp_blockFunction s.rom cmd⟩

end Machine

end Sys2Proof
end

section
/-! PROOFS. The assembler on parsed lines (R75, R76): what it refuses, and the words of the lines it takes. -/

namespace Sys2Proof.Machine

theorem assemble_of_wellFormed {line : AsmLine} (h : line.wellFormed = true) :
    assemble line = some (asmCommands line) := if_pos h

theorem eq_asmCommands_of_assemble {line : AsmLine} {cmds : List Cmd} (h : assemble line = some cmds) :
    cmds = asmCommands line := by
  unfold assemble at h
  split at h <;> cases h
  rfl

/-- R75: two lines of one well-formedness and one list of words are assembled alike. -/
theorem assemble_congr {line line' : AsmLine} (hline : line.wellFormed = line'.wellFormed)
    (hcmds : asmCommands line = asmCommands line') : assemble line = assemble line' := by
  unfold assemble
  rw [hline, hcmds]

/-! ### What is refused -/

theorem assemble_eq_none_iff (line : AsmLine) : assemble line = none ↔ line.wellFormed = false := by
  simp [assemble]

theorem assemble_eq_none_iff_of_operand {line : AsmLine} {n max : Nat} (h : line.wellFormed = decide (n ≤ max)) :
    assemble line = none ↔ max < n := by
  rw [assemble_eq_none_iff, h, decide_eq_false_iff_not, Nat.not_le]

theorem assemble_eq_none_iff_of_operands {line : AsmLine} {ns : List Nat} {max : Nat}
    (h : line.wellFormed = ns.all fun n => decide (n ≤ max)) : assemble line = none ↔ ∃ n ∈ ns, max < n := by
  rw [assemble_eq_none_iff, h, List.all_eq_false]
  simp

theorem assemble_eq_none_iff_of_text {line : AsmLine} {text : List Nat} {len max : Nat}
    (h : line.wellFormed = (decide (text.length = len) && text.all fun ch => decide (ch ≤ max))) :
    assemble line = none ↔ text.length ≠ len ∨ ∃ ch ∈ text, max < ch := by
  rw [assemble_eq_none_iff, h, Bool.and_eq_false_iff, decide_eq_false_iff_not, List.all_eq_false]
  simp

theorem assemble_word_eq_none_iff (v : Nat) : assemble (.word v) = none ↔ 2 ^ 32 ≤ v := by
  simp [assemble_eq_none_iff, AsmLine.wellFormed]

theorem wellFormed_dect (l1 l2 l3 : Nat) :
    (AsmLine.dect l1 l2 l3).wellFormed = [l1, l2, l3].all fun l => decide (l ≤ 255) := by
  simp [AsmLine.wellFormed, Bool.and_assoc]

theorem wellFormed_decp (l1 l2 : Nat) :
    (AsmLine.decp l1 l2).wellFormed = [l1, l2].all fun l => decide (l ≤ 255) := by
  simp [AsmLine.wellFormed]

/-! ### Operands in their fields -/

theorem toNat_word16 {n : Nat} (h : n ≤ 65535) : (BitVec.ofNat 16 n).toNat = n := Nat.mod_eq_of_lt (by omega)

theorem toNat_lane8 {n : Nat} (h : n ≤ 255) : (lane8 n).toNat = n := Nat.mod_eq_of_lt (by omega)

theorem map_lane8_map_toNat (bytes : List Byte) : (bytes.map BitVec.toNat).map lane8 = bytes := by
  simp [lane8, Function.comp_def]

/-! ### The lines of one word, the word as a number -/

/-- What the assembler makes of a well-formed line of one command word. -/
theorem assemble_one_word {line : AsmLine} {cmd : Cmd} {n : Nat} (hline : line.wellFormed = true)
    (hcmds : asmCommands line = [cmd]) (hcmd : cmd.toNat = n) :
    ∃ cmd, assemble line = some [cmd] ∧ cmd.toNat = n :=
  ⟨cmd, hcmds ▸ assemble_of_wellFormed hline, hcmd⟩

theorem assemble_encw_of_le {w : Nat} (h : w ≤ 65535) :
    ∃ cmd, assemble (.encw w) = some [cmd] ∧ cmd.toNat = 0x10000000 + w :=
  assemble_one_word (decide_eq_true h) rfl (by rw [toNat_encode_encw, toNat_word16 h])

theorem assemble_encwd_of_le {w : Nat} (h : w ≤ 65535) :
    ∃ cmd, assemble (.encwd w) = some [cmd] ∧ cmd.toNat = 0x90000000 + w :=
  assemble_one_word (decide_eq_true h) rfl (by rw [toNat_encode_encwd, toNat_word16 h])

theorem assemble_encb_of_le {b : Nat} (h : b ≤ 255) :
    ∃ cmd, assemble (.encb b) = some [cmd] ∧ cmd.toNat = 0x20000000 + b :=
  assemble_one_word (decide_eq_true h) rfl (by rw [toNat_encode_encb, toNat_lane8 h])

theorem assemble_encbd_of_le {b : Nat} (h : b ≤ 255) :
    ∃ cmd, assemble (.encbd b) = some [cmd] ∧ cmd.toNat = 0xA0000000 + b :=
  assemble_one_word (decide_eq_true h) rfl (by rw [toNat_encode_encbd, toNat_lane8 h])

section
variable {l1 l2 l3 : Nat} (h1 : l1 ≤ 255) (h2 : l2 ≤ 255) (h3 : l3 ≤ 255)
include h1 h2

theorem assemble_decp_of_le :
    ∃ cmd, assemble (.decp l1 l2) = some [cmd] ∧ cmd.toNat = 0x40000000 + 256 * l1 + l2 := by
  refine assemble_one_word (by simp [AsmLine.wellFormed, h1, h2]) rfl ?_
  rw [toNat_encode_decp, toNat_lane8 h1, toNat_lane8 h2]
  omega

theorem assemble_decpd_of_le :
    ∃ cmd, assemble (.decpd l1 l2) = some [cmd] ∧ cmd.toNat = 0xC0000000 + 256 * l1 + l2 := by
  refine assemble_one_word (by simp [AsmLine.wellFormed, h1, h2]) rfl ?_
  rw [toNat_encode_decpd, toNat_lane8 h1, toNat_lane8 h2]
  omega

include h3

theorem assemble_dect_of_le :
    ∃ cmd, assemble (.dect l1 l2 l3) = some [cmd] ∧ cmd.toNat = 0x30000000 + 65536 * l1 + 256 * l2 + l3 := by
  refine assemble_one_word (by simp [AsmLine.wellFormed, h1, h2, h3]) rfl ?_
  rw [toNat_encode_dect, toNat_lane8 h1, toNat_lane8 h2, toNat_lane8 h3]
  omega

theorem assemble_dectd_of_le :
    ∃ cmd, assemble (.dectd l1 l2 l3) = some [cmd] ∧ cmd.toNat = 0xB0000000 + 65536 * l1 + 256 * l2 + l3 := by
  refine assemble_one_word (by simp [AsmLine.wellFormed, h1, h2, h3]) rfl ?_
  rw [toNat_encode_dectd, toNat_lane8 h1, toNat_lane8 h2, toNat_lane8 h3]
  omega

end

theorem assemble_word_of_lt {v : Nat} (h : v < 2 ^ 32) : ∃ cmd, assemble (.word v) = some [cmd] ∧ cmd.toNat = v :=
  assemble_one_word (decide_eq_true h) rfl (Nat.mod_eq_of_lt h)

/-! ### Quoted texts -/

/-- R75: a quoted text stands for what its codes stand for. -/
theorem assemble_dectText (l1 l2 l3 : Nat) : assemble (.dectText [l1, l2, l3]) = assemble (.dect l1 l2 l3) :=
  assemble_congr (wellFormed_dect l1 l2 l3).symm rfl

theorem assemble_decpText (l1 l2 : Nat) : assemble (.decpText [l1, l2]) = assemble (.decp l1 l2) :=
  assemble_congr (wellFormed_decp l1 l2).symm rfl

/-! ### The stream lines, and the legality of what a line stands for -/

theorem assemble_encs_of_bytes (bytes : List Byte) :
    assemble (.encs (bytes.map BitVec.toNat)) = some (programOf (encsCommands bytes)) := by
  have hfits : (AsmLine.encs (bytes.map BitVec.toNat)).wellFormed = true := by
    simp only [AsmLine.wellFormed, List.all_map, List.all_eq_true, Function.comp_apply, decide_eq_true_eq]
    intro b _
    exact Nat.le_of_lt_succ b.isLt
  rw [assemble_of_wellFormed hfits, asmCommands, map_lane8_map_toNat]

theorem legal_of_mem_programOf {instrs : List Instr} : ∀ cmd ∈ programOf instrs, legal cmd = true := by
  simp only [programOf, List.forall_mem_map]
  intro i _
  exact legal_encode i

/-- R75, R76: a line that is no `.word` line stands for encodings of commands only. -/
theorem asmCommands_eq_programOf {line : AsmLine} (h : ∀ v, line ≠ .word v) :
    ∃ instrs, asmCommands line = programOf instrs := by
  cases line with
  | word v => exact absurd rfl (h v)
  | encs bytes | decs text => exact ⟨_, rfl⟩
  | dectText text =>
    match text with
    | [_, _, _] => exact ⟨[_], rfl⟩
    | [] | [_] | [_, _] | _ :: _ :: _ :: _ :: _ => exact ⟨[], rfl⟩
  | decpText text =>
    match text with
    | [_, _] => exact ⟨[_], rfl⟩
    | [] | [_] | _ :: _ :: _ :: _ => exact ⟨[], rfl⟩
  | _ => exact ⟨[_], rfl⟩

theorem legal_of_assemble {line : AsmLine} {cmds : List Cmd} (h : assemble line = some cmds)
    (hword : ∀ v, line ≠ .word v) : ∀ cmd ∈ cmds, legal cmd = true := by
  obtain ⟨instrs, hinstrs⟩ := asmCommands_eq_programOf hword
  rw [eq_asmCommands_of_assemble h, hinstrs]
  exact legal_of_mem_programOf

theorem assemble_word_toNat (cmd : Cmd) : assemble (.word cmd.toNat) = some [cmd] := by
  have hfits : (AsmLine.word cmd.toNat).wellFormed = true := decide_eq_true cmd.isLt
  rw [assemble_of_wellFormed hfits, asmCommands, BitVec.ofNat_toNat, BitVec.setWidth_eq]

/-- Settles O60, each clause by the lemma on its lines. -/
theorem theAssemblerRefusesWhatDoesNotFit : Obligations.TheAssemblerRefusesWhatDoesNotFit :=
  ⟨fun _ => ⟨assemble_eq_none_iff_of_operand rfl, assemble_eq_none_iff_of_operand rfl,
      fun h => ⟨assemble_encw_of_le h, assemble_encwd_of_le h⟩⟩,
    fun _ => ⟨assemble_eq_none_iff_of_operand rfl, assemble_eq_none_iff_of_operand rfl,
      fun h => ⟨assemble_encb_of_le h, assemble_encbd_of_le h⟩⟩,
    fun l1 l2 l3 => ⟨assemble_eq_none_iff_of_operands (wellFormed_dect l1 l2 l3),
      assemble_eq_none_iff_of_operands (wellFormed_dect l1 l2 l3), assemble_dectText l1 l2 l3,
      fun h1 h2 h3 => ⟨assemble_dect_of_le h1 h2 h3, assemble_dectd_of_le h1 h2 h3⟩⟩,
    fun l1 l2 => ⟨assemble_eq_none_iff_of_operands (wellFormed_decp l1 l2),
      assemble_eq_none_iff_of_operands (wellFormed_decp l1 l2), assemble_decpText l1 l2,
      fun h1 h2 => ⟨assemble_decp_of_le h1 h2, assemble_decpd_of_le h1 h2⟩⟩,
    fun _ => ⟨assemble_eq_none_iff_of_text rfl, assemble_eq_none_iff_of_text rfl⟩,
    fun v => ⟨assemble_word_eq_none_iff v, assemble_word_of_lt⟩,
    fun _ => assemble_eq_none_iff_of_operands rfl, assemble_encs_of_bytes, fun _ => rfl,
    fun _ _ => legal_of_assemble, assemble_word_toNat⟩

end Sys2Proof.Machine
end

section
/-! PROOFS. base45_word_encoder: the digits of a Word (R100 to R102), the responses of ENCW and ENCWD (R103, R104), and
that no encoder reports an error (R105). -/

namespace Sys2Proof

/-! ### The words of ENCW and ENCWD -/

theorem decode_encw_of_mask {cmd : Cmd} (h : cmd &&& 0xFFFF0000#32 = 0x10000000#32) :
    decode cmd = .ok (.encw (opndWord cmd)) := by
  obtain ⟨hrsv, hop, hhi⟩ := (mask_16_eq_iff cmd 0x1#4).mp h
  exact decode_encw_of_fields hrsv hop hhi

theorem decode_encwd_of_mask {cmd : Cmd} (h : cmd &&& 0xFFFF0000#32 = 0x90000000#32) :
    decode cmd = .ok (.encwd (opndWord cmd)) := by
  obtain ⟨hrsv, hop, hhi⟩ := (mask_16_eq_iff cmd 0x9#4).mp h
  exact decode_encwd_of_fields hrsv hop hhi

/-- R64, R65: `cmd[27:16]` is `rsv` and the highest operand lane. -/
theorem rsv_hi_eq_zero_iff (cmd : Cmd) :
    cmd.extractLsb' 16 12 = 0#12 ↔ cmdRsv cmd = 0#4 ∧ laneHi cmd = 0#8 := by
  simp only [← BitVec.toNat_inj, toNat_field, cmdRsv_toNat, laneHi_toNat, BitVec.toNat_ofNat]
  omega

/-- R65: the commands with two operand bytes leave `cmd[27:16]` zero. -/
theorem legal_eq_false_of_rsv_hi {cmd : Cmd} (hop : cmdOp cmd ∈ [0x1#4, 0x9#4, 0x4#4, 0xC#4])
    (h : cmd.extractLsb' 16 12 ≠ 0#12) : legal cmd = false := by
  have hothers : ∀ op ∈ [0x1#4, 0x9#4, 0x4#4, 0xC#4], op ∉ [0x2#4, 0xA#4] ∧ op ∉ [0x3#4, 0xB#4] := by decide
  obtain ⟨hbyte, hthree⟩ := hothers _ hop
  by_contra hl
  obtain ⟨hrsv, ⟨-, hhi⟩ | ⟨hop', -⟩ | hop'⟩ := (legal_iff_cases cmd).mp (by simpa using hl)
  · exact h ((rsv_hi_eq_zero_iff cmd).mpr ⟨hrsv, hhi⟩)
  · exact hbyte hop'
  · exact hthree hop'

namespace Machine

/-! ### What a ready block answers -/

/-- R28, R29: a ready block answers a command with its block function. -/
theorem exec_answers {i : Instr} {s : State} {rsp : Rsp} (hr : s.Ready) (h : blockFunction s.rom (encode i) = rsp) :
    ∃ s', exec i s = .next s' ∧ Answered s (encode i) rsp s' :=
  ⟨_, exec_eq_blockFunction i s, h ▸ s.answered_issue _ _ hr⟩

theorem runCommand_answers {cmd : Cmd} {s : State} {rsp : Rsp} (hr : s.Ready) (h : blockFunction s.rom cmd = rsp) :
    ∃ s', runCommand cmd s = .next s' ∧ Answered s cmd rsp s' :=
  ⟨_, runCommand_eq_blockFunction cmd s, h ▸ s.answered_issue _ _ hr⟩

/-- A table of operands and responses, each entry checked by evaluation, is what a ready block answers. -/
theorem exec_answers_table {α : Type} {i : α → Instr} {rsp : α → Rsp} {rom : Vector Byte 45} {s : State}
    {table : List (α × Rsp)} (hr : s.Ready) (hrom : s.rom = rom) (h : ∀ a, blockFunction rom (encode (i a)) = rsp a)
    (htable : table.all (fun p => rsp p.1 == p.2) = true) :
    ∀ p ∈ table, ∃ s', exec (i p.1) s = .next s' ∧ Answered s (encode (i p.1)) p.2 s' := by
  intro p hp
  have hrsp : rsp p.1 = p.2 := beq_iff_eq.mp (List.all_eq_true.mp htable p hp)
  exact exec_answers hr (by rw [hrom, h, hrsp])

/-- R204: an illegal word is answered with status 4, its own op and zero data. -/
theorem runCommand_answers_illegalCommand {cmd : Cmd} {s : State} {op : BitVec 4} (hr : s.Ready)
    (hl : legal cmd = false) (hop : cmdOp cmd = op) :
    ∃ s', runCommand cmd s = .next s' ∧ Answered s cmd (0x4#4 ++ op ++ 0x000000#24) s' :=
  runCommand_answers hr (by rw [blockFunction_of_illegal _ _ hl, ← hop]; rfl)

/-! ### The digits of a Word -/

theorem enc16_c_le (w : Word) : (enc16 w).c.val ≤ 44 := Nat.le_of_lt_succ (enc16 w).c.isLt

theorem enc16_d_le (w : Word) : (enc16 w).d.val ≤ 44 := Nat.le_of_lt_succ (enc16 w).d.isLt

/-- R100: 1456 is the quotient of the largest Word by 45. -/
theorem toNat_div_45_le (w : Word) : w.toNat / 45 ≤ 1456 := by
  have := w.isLt
  omega

theorem enc16_e_le (w : Word) : (enc16 w).e.val ≤ 32 := by
  have := toNat_div_45_le w
  rw [enc16_e]
  omega

/-- R102: the triple is unique: digits with the value of a Word are those the encoder finds. -/
theorem enc16_eq_of_weightedSum {w : Word} {c d e : Digit} (h : weightedSum c d e = w.toNat) :
    enc16 w = { c := c, d := d, e := e } := by
  have hle : weightedSum c d e ≤ 65535 := h ▸ Nat.le_of_lt_succ w.isLt
  simpa [h] using enc16_weightedSum c d e hle

/-- R102: the third character is one of '0' to '9' and 'A' to 'W'. -/
theorem alphabet_of_le_32 {i : Digit} (h : i.val ≤ 32) :
    (0x30 ≤ alphabet[i].toNat ∧ alphabet[i].toNat ≤ 0x39) ∨ (0x41 ≤ alphabet[i].toNat ∧ alphabet[i].toNat ≤ 0x57) := by
  rcases Nat.lt_or_ge 9 i.val with hletter | hdigit
  · rw [alphabet_of_letter i hletter (by omega)]
    omega
  · rw [alphabet_of_digit i hdigit]
    omega

/-- Settles O21: the steps are the definition's own, and the Word is at most 65535. -/
theorem encoderStepsAndTheirRanges : Obligations.EncoderStepsAndTheirRanges := fun w =>
  ⟨enc16_c w, enc16_d w, enc16_e w, enc16_c_le w, toNat_div_45_le w, enc16_d_le w, enc16_e_le w⟩

/-- Settles O22: the triple's value is the Word, and the encoder inverts the weighted sum. -/
theorem encoderTripleLaws : Obligations.EncoderTripleLaws := by
  intro w
  have hvalue : (enc16 w).c.val + 45 * (enc16 w).d.val + 45 * 45 * (enc16 w).e.val = w.toNat := weightedSum_enc16 w
  exact ⟨hvalue.symm, enc16_c_le w, enc16_d_le w, enc16_e_le w, alphabet_of_le_32 (enc16_e_le w),
    fun _ _ _ h => enc16_eq_of_weightedSum h, fun he => by omega⟩

/-! ### The responses -/

theorem blockFunction_encw_eq_cat (rom : Vector Byte 45) (w : Word) :
    blockFunction rom (encode (.encw w)) =
      0x0#4 ++ 0x1#4 ++ rom[(enc16 w).c] ++ rom[(enc16 w).d] ++ rom[(enc16 w).e] := by
  rw [blockFunction_encw, ← cat_lanes, cmdOp_encode_encw]
  rfl

theorem blockFunction_encwd_eq_cat (rom : Vector Byte 45) (w : Word) :
    blockFunction rom (encode (.encwd w)) =
      0x0#4 ++ 0x9#4 ++ BitVec.ofNat 8 (w.toNat % 45) ++ BitVec.ofNat 8 (w.toNat / 45 % 45) ++
        BitVec.ofNat 8 (w.toNat / 45 / 45) := by
  rw [blockFunction_encwd, ← cat_lanes, cmdOp_encode_encwd]
  rfl

/-- Settles O6: the lanes are the ROM's entries of the digits; the corner cases are closed words. -/
theorem encwAnswersThreeCharacters : Obligations.EncwAnswersThreeCharacters := by
  refine ⟨fun cmd => decode_encw_of_mask, fun w s c d e hr hc hd he => ?result, fun cmd s hr hop h => ?illegal,
    fun s hr hrom => exec_answers_table hr hrom (blockFunction_encw_eq_cat alphabet) (by decide), by decide⟩
  case result =>
    obtain rfl : c = (enc16 w).c := Fin.ext hc
    obtain rfl : d = (enc16 w).d := Fin.ext hd
    obtain rfl : e = (enc16 w).e := Fin.ext he
    exact exec_answers hr (blockFunction_encw_eq_cat s.rom w)
  case illegal =>
    replace hop : cmdOp cmd = 0x1#4 := hop
    exact runCommand_answers_illegalCommand hr (legal_eq_false_of_rsv_hi (by simp [hop]) h) hop

/-- Settles O7: the lanes are the digits, the first two at most 44 and the last at most 32. -/
theorem encwdAnswersThreeDigits : Obligations.EncwdAnswersThreeDigits := by
  refine ⟨fun cmd => decode_encwd_of_mask, fun w s hr => ?result, fun cmd s hr hop h => ?illegal,
    fun s hr => exec_answers_table hr rfl (blockFunction_encwd_eq_cat s.rom) (by decide), by decide⟩
  case result =>
    obtain ⟨s', hexec, hans⟩ := exec_answers hr (blockFunction_encwd_eq_cat s.rom w)
    exact ⟨s', hexec, hans, enc16_c_le w, enc16_d_le w, enc16_e_le w⟩
  case illegal =>
    replace hop : cmdOp cmd = 0x9#4 := hop
    exact runCommand_answers_illegalCommand hr (legal_eq_false_of_rsv_hi (by simp [hop]) h) hop

/-- Settles O19: each encoder's block function is a response with status OK. -/
theorem encodersAlwaysAnswerOk : Obligations.EncodersAlwaysAnswerOk := by
  intro i s hr hi
  obtain ⟨data, hdata⟩ : ∃ data, blockFunction s.rom (encode i) = respond (encode i) .ok data := by
    rcases hi with ⟨w, rfl⟩ | ⟨w, rfl⟩ | ⟨b, rfl⟩ | ⟨b, rfl⟩
    · exact ⟨_, blockFunction_encw s.rom w⟩
    · exact ⟨_, blockFunction_encwd s.rom w⟩
    · exact ⟨_, blockFunction_encb s.rom b⟩
    · exact ⟨_, blockFunction_encbd s.rom b⟩
  obtain ⟨s', hexec, hans⟩ := exec_answers hr hdata
  exact ⟨s', _, hexec, hans, rspStatus_respond ..⟩

end Machine

end Sys2Proof
end

section
/-! PROOFS. base45_word_decoder: the weighted sum and its range check (R120, R123), the laws of the decoder (R122, R124),
and the responses of DECT and DECTD (R125, R126). -/

namespace Sys2Proof

/-! ### The words of DECT and DECTD -/

theorem decode_dect_of_mask {cmd : Cmd} (h : cmd &&& 0xFF000000#32 = 0x30000000#32) :
    decode cmd = .ok (.dect (laneHi cmd) (laneMid cmd) (laneLo cmd)) := by
  obtain ⟨hrsv, hop⟩ := (mask_24_eq_iff cmd 0x3#4).mp h
  exact decode_dect_of_fields hrsv hop

theorem decode_dectd_of_mask {cmd : Cmd} (h : cmd &&& 0xFF000000#32 = 0xB0000000#32) :
    decode cmd = .ok (.dectd (laneHi cmd) (laneMid cmd) (laneLo cmd)) := by
  obtain ⟨hrsv, hop⟩ := (mask_24_eq_iff cmd 0xB#4).mp h
  exact decode_dectd_of_fields hrsv hop

/-- R64: no legal word has a reserved bit set. -/
theorem legal_eq_false_of_rsv {cmd : Cmd} (h : cmdRsv cmd ≠ 0#4) : legal cmd = false := by
  by_contra hl
  obtain ⟨hrsv, -⟩ := (legal_iff_cases cmd).mp (by simpa using hl)
  exact h hrsv

namespace Machine

/-! ### The weighted sum -/

theorem weightedSum_le (c d e : Digit) : weightedSum c d e ≤ 91124 := by
  unfold weightedSum
  omega

/-- R120: below 2^17 the range check is bit 16, the quotient by 2^16. -/
theorem range_check_iff_bit_16 {v : Nat} (h : v < 2 ^ 17) : 65535 < v ↔ (BitVec.ofNat 17 v).getLsbD 16 = true := by
  rw [BitVec.getLsbD_ofNat, Nat.testBit_eq_decide_div_mod_eq, Bool.and_eq_true, decide_eq_true_eq, decide_eq_true_eq]
  omega

/-- Settles O23: each digit is at most 44, which bounds the terms and the sum. -/
theorem weightedSumFormsAndRange : Obligations.WeightedSumFormsAndRange := by
  intro c d e
  have hsum := weightedSum_le c d e
  refine ⟨rfl, ?_, by omega, by omega, hsum, range_check_iff_bit_16 (by omega)⟩
  unfold weightedSum
  omega

/-! ### The three outcomes of the decoder -/

theorem dec3_of_le {c d e : Digit} (h : weightedSum c d e ≤ 65535) :
    dec3 (some c) (some d) (some e) = .ok (BitVec.ofNat 16 (weightedSum c d e)) := by
  rw [dec3_some, if_neg (by omega)]

theorem dec3_of_gt {c d e : Digit} (h : 65535 < weightedSum c d e) :
    dec3 (some c) (some d) (some e) = .error .invalidCode := by
  rw [dec3_some, if_pos h]

/-- R124: decoding is the inverse of the encoder's triple. -/
theorem dec3_eq_ok_iff {c d e : Digit} {w : Word} :
    dec3 (some c) (some d) (some e) = .ok w ↔ enc16 w = { c := c, d := d, e := e } := by
  constructor
  · intro h
    rcases Nat.lt_or_ge 65535 (weightedSum c d e) with hgt | hle
    · cases (dec3_of_gt hgt).symm.trans h
    · obtain rfl : BitVec.ofNat 16 (weightedSum c d e) = w := Except.ok.inj ((dec3_of_le hle).symm.trans h)
      exact enc16_weightedSum c d e hle
  · intro h
    have hw : weightedSum c d e = w.toNat := by simpa [h] using weightedSum_enc16 w
    have hlt := w.isLt
    rw [dec3_of_le (by omega), hw, BitVec.ofNat_toNat, BitVec.setWidth_eq]

theorem dec3_enc16 (w : Word) : dec3 (some (enc16 w).c) (some (enc16 w).d) (some (enc16 w).e) = .ok w :=
  dec3_eq_ok_iff.mpr rfl

theorem exists_dec3_eq_ok_iff {c d e : Digit} :
    (∃ w, dec3 (some c) (some d) (some e) = .ok w) ↔ weightedSum c d e ≤ 65535 := by
  refine ⟨fun ⟨w, hw⟩ => ?_, fun h => ⟨_, dec3_of_le h⟩⟩
  by_contra hgt
  cases (dec3_of_gt (by omega)).symm.trans hw

theorem dec3_eq_invalidCode_iff {c d e : Digit} :
    dec3 (some c) (some d) (some e) = .error .invalidCode ↔ 65535 < weightedSum c d e := by
  refine ⟨fun h => ?_, dec3_of_gt⟩
  by_contra hle
  cases (dec3_of_le (by omega)).symm.trans h

theorem dec3_injective {c d e c' d' e' : Digit} {w : Word} (h : dec3 (some c) (some d) (some e) = .ok w)
    (h' : dec3 (some c') (some d') (some e') = .ok w) : c = c' ∧ d = d' ∧ e = e' := by
  simpa using (dec3_eq_ok_iff.mp h).symm.trans (dec3_eq_ok_iff.mp h')

/-- R124: the weighted sum numbers the legal triples from 0 to 65535; the encoder finds the triple of a number. -/
theorem card_legal_triples :
    ((Finset.univ : Finset (Digit × Digit × Digit)).filter
      (fun t => weightedSum t.1 t.2.1 t.2.2 ≤ 65535)).card = 65536 := by
  rw [← Finset.card_range 65536]
  refine Finset.card_bij (fun t _ => weightedSum t.1 t.2.1 t.2.2) ?maps ?injective ?surjective
  case maps =>
    intro t ht
    rw [Finset.mem_range]
    exact Nat.lt_succ_of_le (Finset.mem_filter.mp ht).2
  case injective =>
    rintro ⟨c, d, e⟩ ht ⟨c', d', e'⟩ ht' hsum
    have h := dec3_of_le (Finset.mem_filter.mp ht).2
    have h' := dec3_of_le (Finset.mem_filter.mp ht').2
    obtain ⟨rfl, rfl, rfl⟩ := dec3_injective h (hsum ▸ h')
    rfl
  case surjective =>
    intro n hn
    obtain ⟨w, rfl⟩ : ∃ w : Word, w.toNat = n :=
      ⟨BitVec.ofNat 16 n, Nat.mod_eq_of_lt (Finset.mem_range.mp hn)⟩
    have hlegal : weightedSum (enc16 w).c (enc16 w).d (enc16 w).e ≤ 65535 := exists_dec3_eq_ok_iff.mp ⟨w, dec3_enc16 w⟩
    exact ⟨((enc16 w).c, (enc16 w).d, (enc16 w).e), Finset.mem_filter.mpr ⟨Finset.mem_univ _, hlegal⟩,
      weightedSum_enc16 w⟩

/-! ### The responses -/

/-- R73: a Word in the response. -/
theorem respondWord_ok (cmd : Cmd) (v : Word) :
    respondWord cmd (.ok v) = 0x0#4 ++ cmdOp cmd ++ 0x00#8 ++ v := by
  apply BitVec.eq_of_toNat_eq
  rw [respondWord, toNat_respond, toNat_cat, toNat_cat, toNat_cat, toNat_cat]
  simp only [Status.code, BitVec.toNat_ofNat]
  omega

section
variable {cmd : Cmd} {op : BitVec 4} (hop : cmdOp cmd = op)
include hop

theorem respondWord_dec3_of_none {i1 i2 i3 : Option Digit} (h : i1 = none ∨ i2 = none ∨ i3 = none) :
    respondWord cmd (dec3 i1 i2 i3) = 0x2#4 ++ op ++ 0x000000#24 := by
  rw [(dec3_eq_invalidCharacter_iff i1 i2 i3).mpr h, ← hop]
  rfl

theorem respondWord_dec3_of_gt {c d e : Digit} (h : 65535 < weightedSum c d e) :
    respondWord cmd (dec3 (some c) (some d) (some e)) = 0x3#4 ++ op ++ 0x000000#24 := by
  rw [dec3_of_gt h, ← hop]
  rfl

theorem respondWord_dec3_of_le {c d e : Digit} (h : weightedSum c d e ≤ 65535) :
    respondWord cmd (dec3 (some c) (some d) (some e)) =
      0x0#4 ++ op ++ 0x00#8 ++ BitVec.ofNat 16 (weightedSum c d e) := by
  rw [dec3_of_le h, respondWord_ok, hop]

end

/-- R124: what ENCW answers, DECT decodes to its Word. -/
theorem blockFunction_dect_encw (w : Word) :
    blockFunction alphabet (encode (.dect (rspHi (blockFunction alphabet (encode (.encw w))))
      (rspMid (blockFunction alphabet (encode (.encw w)))) (rspLo (blockFunction alphabet (encode (.encw w)))))) =
      0x0#4 ++ 0x3#4 ++ 0x00#8 ++ w := by
  have hinv : ∀ i, alphaInv alphabet (alpha alphabet i) = some i := alphaInv_alphabet
  rw [blockFunction_encw, rspHi_respond_lanes3, rspMid_respond_lanes3, rspLo_respond_lanes3, blockFunction_dect,
    hinv, hinv, hinv, dec3_enc16, respondWord_ok, cmdOp_encode_dect]

/-- R124: what ENCWD answers, DECTD decodes to its Word. -/
theorem blockFunction_dectd_encwd (w : Word) :
    blockFunction alphabet (encode (.dectd (rspHi (blockFunction alphabet (encode (.encwd w))))
      (rspMid (blockFunction alphabet (encode (.encwd w)))) (rspLo (blockFunction alphabet (encode (.encwd w)))))) =
      0x0#4 ++ 0xB#4 ++ 0x00#8 ++ w := by
  rw [blockFunction_encwd, rspHi_respond_lanes3, rspMid_respond_lanes3, rspLo_respond_lanes3, blockFunction_dectd,
    digitOfLane_laneOfDigit, digitOfLane_laneOfDigit, digitOfLane_laneOfDigit, dec3_enc16, respondWord_ok,
    cmdOp_encode_dectd]

/-- R124: the third digit decides, but for 32, where the other two have room up to 735. -/
theorem decoder_legality_by_third_digit (c d e : Digit) :
    (e.val ≤ 31 → weightedSum c d e ≤ 64799 ∧ ∃ w, dec3 (some c) (some d) (some e) = .ok w) ∧
    (e.val = 32 → ((∃ w, dec3 (some c) (some d) (some e) = .ok w) ↔ c.val + 45 * d.val ≤ 735)) ∧
    (33 ≤ e.val → dec3 (some c) (some d) (some e) = .error .invalidCode) := by
  rw [exists_dec3_eq_ok_iff, dec3_eq_invalidCode_iff]
  unfold weightedSum
  omega

/-- Settles O24: decoding is the inverse of the encoder, on exactly the triples whose sum is a Word. -/
theorem decoderLaws : Obligations.DecoderLaws :=
  ⟨card_legal_triples, fun w => ⟨dec3_enc16 w, blockFunction_dect_encw w, blockFunction_dectd_encwd w⟩,
    fun _ _ _ => exists_congr fun _ => dec3_eq_ok_iff, fun _ _ _ _ _ _ _ => dec3_injective,
    ⟨by decide, by decide, by decide, by decide, fun c d e => dec3_eq_invalidCode_iff.mp⟩,
    decoder_legality_by_third_digit⟩

/-! ### DECT and DECTD on a ready block -/

/-- A table of commands and responses, each entry checked by evaluation, is what a ready block answers. -/
theorem exec_answers_entries {β : Type} {i : β → Instr} {f rsp : β → Rsp} {rom : Vector Byte 45} {s : State}
    {table : List β} (hr : s.Ready) (hrom : s.rom = rom) (h : ∀ p, blockFunction rom (encode (i p)) = f p)
    (htable : (table.map fun p => (p, rsp p)).all (fun p => f p.1 == p.2) = true) :
    ∀ p ∈ table, ∃ s', exec (i p) s = .next s' ∧ Answered s (encode (i p)) (rsp p) s' := fun p hp =>
  exec_answers_table hr hrom h htable (p, rsp p) (List.mem_map_of_mem hp)

/-- R121, R122: some lane of three has no index. -/
theorem index_eq_none_of_mem {f : Lane → Option Digit} {P : Lane → Prop} {l1 l2 l3 : Lane}
    (hf : ∀ l, P l → f l = none) (h : ∃ l ∈ [l1, l2, l3], P l) : f l1 = none ∨ f l2 = none ∨ f l3 = none := by
  obtain ⟨l, hl, hP⟩ := h
  simp only [List.mem_cons, List.not_mem_nil, or_false] at hl
  rcases hl with rfl | rfl | rfl
  · exact .inl (hf l hP)
  · exact .inr (.inl (hf l hP))
  · exact .inr (.inr (hf l hP))

/-- Settles O10: the lanes' indices are those of the alphabet, and the response is that of the decoder's outcome. -/
theorem dectAnswersTheWordOrItsError : Obligations.DectAnswersTheWordOrItsError := by
  refine ⟨fun cmd => decode_dect_of_mask, fun l1 l2 l3 s hr hrom => ⟨fun h => ?character, ?word⟩,
    fun cmd s hr hop h => runCommand_answers_illegalCommand hr (legal_eq_false_of_rsv h) hop,
    fun s hr hrom => exec_answers_entries hr hrom (fun p => blockFunction_dect alphabet p.1 p.2.1 p.2.2.1) (by decide),
    by decide⟩
  case character =>
    have hnone := index_eq_none_of_mem (fun l => (alphaInv_eq_none_iff alphabet l).mpr) h
    refine exec_answers hr ?_
    rw [hrom, blockFunction_dect, respondWord_dec3_of_none (cmdOp_encode_dect l1 l2 l3) hnone]
    rfl
  case word =>
    rintro c d e rfl rfl rfl
    have hlane : ∀ i : Digit, alphaInv s.rom alphabet[i] = some i := by
      rw [hrom]
      exact alphaInv_alphabet
    have hresponse := blockFunction_dect s.rom alphabet[c] alphabet[d] alphabet[e]
    rw [hlane, hlane, hlane] at hresponse
    exact ⟨fun h => exec_answers hr (hresponse.trans (respondWord_dec3_of_gt (cmdOp_encode_dect ..) h)),
      fun h => exec_answers hr (hresponse.trans (respondWord_dec3_of_le (cmdOp_encode_dect ..) h))⟩

/-- Settles O28, by the two laws of a digit lane. -/
theorem digitLanesAreTheirDigits : Obligations.DigitLanesAreTheirDigits := fun l =>
  ⟨digitOfLane_eq_some_iff l, digitOfLane_eq_none_iff l⟩

theorem digitOfLane_of_le {l : Lane} (h : l.toNat ≤ 44) : digitOfLane l = some ⟨l.toNat, Nat.lt_succ_of_le h⟩ :=
  (digitOfLane_eq_some_iff l _).mpr rfl

/-- Settles O11: the lanes are their digits, and the response is that of the decoder's outcome. -/
theorem dectdAnswersTheWordOrItsError : Obligations.DectdAnswersTheWordOrItsError := by
  refine ⟨fun cmd => decode_dectd_of_mask, fun l1 l2 l3 s hr => ⟨fun h => ?character, fun h1 h2 h3 => ?word⟩,
    fun cmd s hr hop h => runCommand_answers_illegalCommand hr (legal_eq_false_of_rsv h) hop,
    fun s hr => exec_answers_entries hr rfl (fun p => blockFunction_dectd s.rom p.1 p.2.1 p.2.2.1) (by decide),
    by decide⟩
  case character =>
    have hnone := index_eq_none_of_mem (fun l => (digitOfLane_eq_none_iff l).mpr) h
    refine exec_answers hr ?_
    rw [blockFunction_dectd, respondWord_dec3_of_none (cmdOp_encode_dectd l1 l2 l3) hnone]
    rfl
  case word =>
    have hresponse := blockFunction_dectd s.rom l1 l2 l3
    rw [digitOfLane_of_le h1, digitOfLane_of_le h2, digitOfLane_of_le h3] at hresponse
    exact ⟨fun h => exec_answers hr (hresponse.trans (respondWord_dec3_of_gt (cmdOp_encode_dectd ..) h)),
      fun h => exec_answers hr (hresponse.trans (respondWord_dec3_of_le (cmdOp_encode_dectd ..) h))⟩

end Machine

end Sys2Proof
end

section
/-! PROOFS. radix_converter_unit: the pair forms of the encoder and the decoder (R143 to R145), the round trip of a
group (R146), and the responses of ENCB, ENCBD, DECP and DECPD (R150 to R153). -/

namespace Sys2Proof

/-! ### The words of the pair forms -/

theorem decode_encb_of_mask {cmd : Cmd} (h : cmd &&& 0xFFFFFF00#32 = 0x20000000#32) :
    decode cmd = .ok (.encb (opndByte cmd)) := by
  obtain ⟨hrsv, hop, hhi, hmid⟩ := (mask_8_eq_iff cmd 0x2#4).mp h
  exact decode_encb_of_fields hrsv hop hhi hmid

theorem decode_encbd_of_mask {cmd : Cmd} (h : cmd &&& 0xFFFFFF00#32 = 0xA0000000#32) :
    decode cmd = .ok (.encbd (opndByte cmd)) := by
  obtain ⟨hrsv, hop, hhi, hmid⟩ := (mask_8_eq_iff cmd 0xA#4).mp h
  exact decode_encbd_of_fields hrsv hop hhi hmid

theorem decode_decp_of_mask {cmd : Cmd} (h : cmd &&& 0xFFFF0000#32 = 0x40000000#32) :
    decode cmd = .ok (.decp (laneMid cmd) (laneLo cmd)) := by
  obtain ⟨hrsv, hop, hhi⟩ := (mask_16_eq_iff cmd 0x4#4).mp h
  exact decode_decp_of_fields hrsv hop hhi

theorem decode_decpd_of_mask {cmd : Cmd} (h : cmd &&& 0xFFFF0000#32 = 0xC0000000#32) :
    decode cmd = .ok (.decpd (laneMid cmd) (laneLo cmd)) := by
  obtain ⟨hrsv, hop, hhi⟩ := (mask_16_eq_iff cmd 0xC#4).mp h
  exact decode_decpd_of_fields hrsv hop hhi

/-- R64, R65: `cmd[27:8]` is `rsv` and the two upper operand lanes. -/
theorem rsv_hi_mid_eq_zero_iff (cmd : Cmd) :
    cmd.extractLsb' 8 20 = 0#20 ↔ cmdRsv cmd = 0#4 ∧ cmd.extractLsb' 8 16 = 0#16 := by
  simp only [← BitVec.toNat_inj, toNat_field, cmdRsv_toNat, BitVec.toNat_ofNat]
  omega

/-- R65: the commands with one operand byte leave `cmd[27:8]` zero. -/
theorem legal_eq_false_of_rsv_hi_mid {cmd : Cmd} (hop : cmdOp cmd ∈ [0x2#4, 0xA#4])
    (h : cmd.extractLsb' 8 20 ≠ 0#20) : legal cmd = false := by
  have hothers : ∀ op ∈ [0x2#4, 0xA#4], op ∉ [0x1#4, 0x9#4, 0x4#4, 0xC#4] ∧ op ∉ [0x3#4, 0xB#4] := by decide
  obtain ⟨htwo, hthree⟩ := hothers _ hop
  by_contra hl
  obtain ⟨hrsv, ⟨hop', -⟩ | ⟨-, hmid⟩ | hop'⟩ := (legal_iff_cases cmd).mp (by simpa using hl)
  · exact htwo hop'
  · exact h ((rsv_hi_mid_eq_zero_iff cmd).mpr ⟨hrsv, hmid⟩)
  · exact hthree hop'

namespace Machine

/-! ### The digits of a byte -/

theorem toNat_div_45_le_of_byte (b : Byte) : b.toNat / 45 ≤ 5 := by
  have := b.isLt
  omega

theorem enc16_byte_c (b : Byte) : (enc16 (b.setWidth 16)).c.val = b.toNat % 45 := by
  rw [enc16_c, BitVec.toNat_setWidth_of_le (by decide)]

/-- R143: the quotient of a byte by 45 is below 45, so it is the second digit. -/
theorem enc16_byte_d (b : Byte) : (enc16 (b.setWidth 16)).d.val = b.toNat / 45 := by
  have := toNat_div_45_le_of_byte b
  rw [enc16_d, BitVec.toNat_setWidth_of_le (by decide)]
  omega

theorem enc16_byte_e (b : Byte) : (enc16 (b.setWidth 16)).e = fillerDigit := by
  have := toNat_div_45_le_of_byte b
  apply Fin.ext
  rw [enc16_e, BitVec.toNat_setWidth_of_le (by decide)]
  exact Nat.div_eq_of_lt (by omega)

/-- R143, R145: the pair of a byte has the byte's value. -/
theorem enc16_byte_value (b : Byte) :
    (enc16 (b.setWidth 16)).c.val + 45 * (enc16 (b.setWidth 16)).d.val = b.toNat := by
  rw [enc16_byte_c, enc16_byte_d]
  omega

/-- R145: the encoder produces no pair above 255. -/
theorem enc16_byte_ne_of_gt {i1 i2 : Digit} (h : 255 < i1.val + 45 * i2.val) (b : Byte) :
    ¬ ((enc16 (b.setWidth 16)).c = i1 ∧ (enc16 (b.setWidth 16)).d = i2) := by
  rintro ⟨rfl, rfl⟩
  rw [enc16_byte_value] at h
  have := b.isLt
  omega

theorem toNat_laneOfDigit (i : Digit) : (laneOfDigit i).toNat = i.val :=
  (digitOfLane_eq_some_iff _ _).mp (digitOfLane_laneOfDigit i)

/-! ### The responses of ENCB and ENCBD -/

theorem blockFunction_encb_eq_cat (rom : Vector Byte 45) (b : Byte) :
    blockFunction rom (encode (.encb b)) =
      0x0#4 ++ 0x2#4 ++ 0x00#8 ++ rom[(enc16 (b.setWidth 16)).c] ++ rom[(enc16 (b.setWidth 16)).d] := by
  rw [blockFunction_encb, ← cat_lanes, cmdOp_encode_encb]
  rfl

theorem blockFunction_encbd_eq_cat (rom : Vector Byte 45) (b : Byte) :
    blockFunction rom (encode (.encbd b)) =
      0x0#4 ++ 0xA#4 ++ 0x00#8 ++ BitVec.ofNat 8 (b.toNat % 45) ++ BitVec.ofNat 8 (b.toNat / 45) := by
  rw [blockFunction_encbd, ← cat_lanes, cmdOp_encode_encbd, laneOfDigit, laneOfDigit, enc16_byte_c, enc16_byte_d]

/-- Settles O8: the lanes are the ROM's entries of the digits; the corner cases are closed words. -/
theorem encbAnswersTwoCharacters : Obligations.EncbAnswersTwoCharacters := by
  refine ⟨fun cmd => decode_encb_of_mask, fun b s c d hr hc hd => ?result, fun cmd s hr hop h => ?illegal,
    fun s hr hrom => exec_answers_table hr hrom (blockFunction_encb_eq_cat alphabet) (by decide), by decide⟩
  case result =>
    obtain rfl : c = (enc16 (b.setWidth 16)).c := Fin.ext (hc.trans (enc16_byte_c b).symm)
    obtain rfl : d = (enc16 (b.setWidth 16)).d := Fin.ext (hd.trans (enc16_byte_d b).symm)
    exact exec_answers hr (blockFunction_encb_eq_cat s.rom b)
  case illegal =>
    replace hop : cmdOp cmd = 0x2#4 := hop
    exact runCommand_answers_illegalCommand hr (legal_eq_false_of_rsv_hi_mid (by simp [hop]) h) hop

/-- Settles O9: the lanes are the digits, the first at most 44 and the second at most 5. -/
theorem encbdAnswersTwoDigits : Obligations.EncbdAnswersTwoDigits := by
  refine ⟨fun cmd => decode_encbd_of_mask, fun b s hr => ?result, fun cmd s hr hop h => ?illegal,
    fun s hr => exec_answers_table hr rfl (blockFunction_encbd_eq_cat s.rom) (by decide), by decide⟩
  case result =>
    obtain ⟨s', hexec, hans⟩ := exec_answers hr (blockFunction_encbd_eq_cat s.rom b)
    exact ⟨s', hexec, hans, Nat.le_of_lt_succ (Nat.mod_lt _ (by decide)), toNat_div_45_le_of_byte b⟩
  case illegal =>
    replace hop : cmdOp cmd = 0xA#4 := hop
    exact runCommand_answers_illegalCommand hr (legal_eq_false_of_rsv_hi_mid (by simp [hop]) h) hop

/-- R143: the second character of a byte's pair is one of '0' to '5'. -/
theorem alphabet_byte_d (b : Byte) :
    0x30 ≤ (alphabet[(enc16 (b.setWidth 16)).d]).toNat ∧ (alphabet[(enc16 (b.setWidth 16)).d]).toNat ≤ 0x35 := by
  have hle := toNat_div_45_le_of_byte b
  have hd := enc16_byte_d b
  rw [alphabet_of_digit _ (by omega)]
  omega

/-- Settles O25: the digits are the remainder and the quotient by 45, and the lanes are those of the response. -/
theorem pairEncoderDigits : Obligations.PairEncoderDigits := by
  refine fun b => ⟨enc16_byte_c b, enc16_c_le _, toNat_div_45_le_of_byte b, enc16_byte_d b,
    congrArg Fin.val (enc16_byte_e b), fun s hr hrom => ?characters, fun s hr => ?digits⟩
  case characters =>
    obtain ⟨s', hexec, hans⟩ := exec_answers hr (blockFunction_encb s.rom b)
    rw [hrom] at hans
    refine ⟨s', _, hexec, hans, ?_⟩
    rw [rspHi_respond_lanes3, rspMid_respond_lanes3, rspLo_respond_lanes3]
    exact ⟨rfl, rfl, rfl, alphabet_byte_d b⟩
  case digits =>
    obtain ⟨s', hexec, hans⟩ := exec_answers hr (blockFunction_encbd s.rom b)
    refine ⟨s', _, hexec, hans, ?_⟩
    rw [rspHi_respond_lanes3, rspMid_respond_lanes3, rspLo_respond_lanes3, toNat_laneOfDigit, toNat_laneOfDigit]
    exact ⟨rfl, enc16_byte_c b, enc16_byte_d b⟩

/-! ### The pair decoder -/

theorem pair_value_le (i1 i2 : Digit) : i1.val + 45 * i2.val ≤ 2024 := by omega

theorem weightedSum_fillerDigit (i1 i2 : Digit) : weightedSum i1 i2 fillerDigit = i1.val + 45 * i2.val := rfl

/-- R144, R145: with the filler digit the range check never fails. -/
theorem dec3_pair (i1 i2 : Digit) :
    dec3 (some i1) (some i2) (some fillerDigit) = .ok (BitVec.ofNat 16 (i1.val + 45 * i2.val)) := by
  have := pair_value_le i1 i2
  rw [dec3_of_le (by rw [weightedSum_fillerDigit]; omega), weightedSum_fillerDigit]

/-- R144: the two outcomes of the pair decoder. -/
theorem dec3_pair_cases (i1 i2 : Option Digit) :
    dec3 i1 i2 (some fillerDigit) = .error .invalidCharacter ∨ ∃ v, dec3 i1 i2 (some fillerDigit) = .ok v :=
  match i1, i2 with
  | none, _ => .inl rfl
  | some _, none => .inl rfl
  | some i1, some i2 => .inr ⟨_, dec3_pair i1 i2⟩

/-- R73, R144: the low 8 bits of the value in the response. -/
theorem respondByte_ok (cmd : Cmd) (v : Word) :
    respondByte cmd (.ok v) = 0x0#4 ++ cmdOp cmd ++ 0x0000#16 ++ v.setWidth 8 := by
  rw [← cat_byte, BitVec.setWidth_eq_extractLsb' (by decide)]

section
variable {cmd : Cmd} {op : BitVec 4} (hop : cmdOp cmd = op)
include hop

theorem respondByte_dec3_of_none {i1 i2 : Option Digit} (h : i1 = none ∨ i2 = none) :
    respondByte cmd (dec3 i1 i2 (some fillerDigit)) = 0x2#4 ++ op ++ 0x000000#24 := by
  rw [(dec3_eq_invalidCharacter_iff i1 i2 _).mpr (h.imp_right .inl), ← hop]
  rfl

theorem respondByte_dec3_pair (i1 i2 : Digit) :
    respondByte cmd (dec3 (some i1) (some i2) (some fillerDigit)) =
      0x0#4 ++ op ++ 0x0000#16 ++ BitVec.ofNat 8 (i1.val + 45 * i2.val) := by
  rw [dec3_pair, respondByte_ok, hop, BitVec.setWidth_ofNat_of_le (by decide)]

/-- R143, R144: the pair of a byte decodes to the byte. -/
theorem respondByte_dec3_byte (b : Byte) :
    respondByte cmd (dec3 (some (enc16 (b.setWidth 16)).c) (some (enc16 (b.setWidth 16)).d) (some fillerDigit)) =
      0x0#4 ++ op ++ 0x0000#16 ++ b := by
  rw [respondByte_dec3_pair hop, enc16_byte_value, BitVec.ofNat_toNat, BitVec.setWidth_eq]

end

/-- R145: the pair decoder never answers InvalidCode. -/
theorem rspStatus_respondByte_ne_invalidCode (cmd : Cmd) (i1 i2 : Option Digit) :
    rspStatus (respondByte cmd (dec3 i1 i2 (some fillerDigit))) ≠ 0x3#4 := by
  rcases dec3_pair_cases i1 i2 with h | ⟨v, h⟩
  · rw [h, respondByte, raise, rspStatus_respond]
    decide
  · rw [h, respondByte, rspStatus_respond]
    decide

/-- R121, R122: some lane of two has no index. -/
theorem index_eq_none_of_mem_pair {f : Lane → Option Digit} {P : Lane → Prop} {l1 l2 : Lane}
    (hf : ∀ l, P l → f l = none) (h : ∃ l ∈ [l1, l2], P l) : f l1 = none ∨ f l2 = none := by
  simpa using index_eq_none_of_mem (l1 := l1) (l2 := l2) (l3 := l2) hf (by simpa using h)

/-- R152: DECP of two entries of the alphabet. -/
theorem blockFunction_decp_alphabet (i1 i2 : Digit) :
    blockFunction alphabet (encode (.decp alphabet[i1] alphabet[i2])) =
      0x0#4 ++ 0x4#4 ++ 0x0000#16 ++ BitVec.ofNat 8 (i1.val + 45 * i2.val) := by
  rw [blockFunction_decp, alphaInv_alphabet, alphaInv_alphabet, respondByte_dec3_pair (cmdOp_encode_decp ..)]

/-- Settles O12: the lanes' indices are those of the alphabet, and the response is that of the decoder's outcome. -/
theorem decpAnswersTheByteOrItsError : Obligations.DecpAnswersTheByteOrItsError := by
  refine ⟨fun cmd => decode_decp_of_mask, fun l1 l2 s hr hrom => ⟨fun h => ?character, ?byte⟩,
    fun cmd s hr hop h => ?illegal,
    fun s hr hrom => exec_answers_entries hr hrom (fun p => blockFunction_decp alphabet p.1 p.2.1) (by decide),
    by decide⟩
  case character =>
    have hnone := index_eq_none_of_mem_pair (fun l => (alphaInv_eq_none_iff alphabet l).mpr) h
    refine exec_answers hr ?_
    rw [hrom, blockFunction_decp, respondByte_dec3_of_none (cmdOp_encode_decp l1 l2) hnone]
    rfl
  case byte =>
    rintro i1 i2 rfl rfl
    exact exec_answers hr (by rw [hrom, blockFunction_decp_alphabet])
  case illegal =>
    replace hop : cmdOp cmd = 0x4#4 := hop
    exact runCommand_answers_illegalCommand hr (legal_eq_false_of_rsv_hi (by simp [hop]) h) hop

/-- Settles O13: the lanes are their digits, and the response is that of the decoder's outcome. -/
theorem decpdAnswersTheByteOrItsError : Obligations.DecpdAnswersTheByteOrItsError := by
  refine ⟨fun cmd => decode_decpd_of_mask, fun l1 l2 s hr => ⟨fun h => ?character, fun h1 h2 => ?byte⟩,
    fun cmd s hr hop h => ?illegal,
    fun s hr => exec_answers_entries hr rfl (fun p => blockFunction_decpd s.rom p.1 p.2.1) (by decide),
    by decide⟩
  case character =>
    have hnone := index_eq_none_of_mem_pair (fun l => (digitOfLane_eq_none_iff l).mpr) h
    refine exec_answers hr ?_
    rw [blockFunction_decpd, respondByte_dec3_of_none (cmdOp_encode_decpd l1 l2) hnone]
    rfl
  case byte =>
    refine exec_answers hr ?_
    rw [blockFunction_decpd, digitOfLane_of_le h1, digitOfLane_of_le h2,
      respondByte_dec3_pair (cmdOp_encode_decpd l1 l2)]
  case illegal =>
    replace hop : cmdOp cmd = 0xC#4 := hop
    exact runCommand_answers_illegalCommand hr (legal_eq_false_of_rsv_hi (by simp [hop]) h) hop

/-- Settles O26: a pair's value passes the range check, its low 8 bits are answered, and a byte's pair is at most
255. -/
theorem pairDecoderNarrowsAndNeverFailsTheRange : Obligations.PairDecoderNarrowsAndNeverFailsTheRange := by
  refine ⟨pair_value_le, fun l1 l2 s hr => ⟨?character, ?digit⟩,
    fun i1 i2 s hr hrom h => ⟨exec_answers hr ?narrowed, enc16_byte_ne_of_gt h⟩, by decide, by decide, by decide⟩
  case character =>
    obtain ⟨s', hexec, hans⟩ := exec_answers hr (blockFunction_decp s.rom l1 l2)
    exact ⟨s', _, hexec, hans, rspStatus_respondByte_ne_invalidCode _ _ _⟩
  case digit =>
    obtain ⟨s', hexec, hans⟩ := exec_answers hr (blockFunction_decpd s.rom l1 l2)
    exact ⟨s', _, hexec, hans, rspStatus_respondByte_ne_invalidCode _ _ _⟩
  case narrowed =>
    have hmod : BitVec.ofNat 8 ((i1.val + 45 * i2.val) % 256) = BitVec.ofNat 8 (i1.val + 45 * i2.val) :=
      BitVec.eq_of_toNat_eq (Nat.mod_mod _ _)
    rw [hrom, blockFunction_decp_alphabet, hmod]

/-! ### The round trip of a group -/

/-- R145, R146: what ENCB answers, DECP decodes to its byte. -/
theorem blockFunction_decp_encb (b : Byte) :
    blockFunction alphabet (encode (.decp (rspMid (blockFunction alphabet (encode (.encb b))))
      (rspLo (blockFunction alphabet (encode (.encb b)))))) = 0x0#4 ++ 0x4#4 ++ 0x0000#16 ++ b := by
  have hinv : ∀ i, alphaInv alphabet (alpha alphabet i) = some i := alphaInv_alphabet
  rw [blockFunction_encb, rspMid_respond_lanes3, rspLo_respond_lanes3, blockFunction_decp, hinv, hinv,
    respondByte_dec3_byte (cmdOp_encode_decp ..)]

/-- R145, R146: what ENCBD answers, DECPD decodes to its byte; digit mode reads no ROM. -/
theorem blockFunction_decpd_encbd (rom : Vector Byte 45) (b : Byte) :
    blockFunction rom (encode (.decpd (rspMid (blockFunction rom (encode (.encbd b))))
      (rspLo (blockFunction rom (encode (.encbd b)))))) = 0x0#4 ++ 0xC#4 ++ 0x0000#16 ++ b := by
  rw [blockFunction_encbd, rspMid_respond_lanes3, rspLo_respond_lanes3, blockFunction_decpd,
    digitOfLane_laneOfDigit, digitOfLane_laneOfDigit, respondByte_dec3_byte (cmdOp_encode_decpd ..)]

/-- R146: digit mode reads no ROM, so the round trip of a Word's digits holds with any. -/
theorem blockFunction_dectd_encwd_of_rom (rom : Vector Byte 45) (w : Word) :
    blockFunction rom (encode (.dectd (rspHi (blockFunction rom (encode (.encwd w))))
      (rspMid (blockFunction rom (encode (.encwd w)))) (rspLo (blockFunction rom (encode (.encwd w)))))) =
      0x0#4 ++ 0xB#4 ++ 0x00#8 ++ w := by
  simpa only [blockFunction_encwd, blockFunction_dectd] using blockFunction_dectd_encwd w

/-- A ready block answers a command, and a second command made from that answer with the response to it. -/
theorem exec_answers_answer {i : Instr} {j : Rsp → Instr} {rsp : Rsp} {s : State} (hr : s.Ready)
    (h : blockFunction s.rom (encode (j (blockFunction s.rom (encode i)))) = rsp) :
    ∃ s' r, exec i s = .next s' ∧ Answered s (encode i) r s' ∧
      ∃ t, exec (j r) s = .next t ∧ Answered s (encode (j r)) rsp t := by
  obtain ⟨s', hexec, hans⟩ := exec_answers (i := i) hr rfl
  exact ⟨s', _, hexec, hans, exec_answers hr h⟩

/-- Settles O27: the decoder's block function on the encoder's response is the input, and a byte's pair is at most
255. -/
theorem groupsMakeTheRoundTrip : Obligations.GroupsMakeTheRoundTrip := by
  refine ⟨fun b s hr hrom => ?_, fun b s hr => ?_, fun w s hr hrom => ?_, fun w s hr => ?_,
    fun i1 i2 b h _ => ⟨enc16_byte_value b, enc16_byte_ne_of_gt h b⟩⟩
  · exact exec_answers_answer (j := fun r => .decp (rspMid r) (rspLo r)) hr (hrom ▸ blockFunction_decp_encb b)
  · exact exec_answers_answer (j := fun r => .decpd (rspMid r) (rspLo r)) hr (blockFunction_decpd_encbd s.rom b)
  · exact exec_answers_answer (j := fun r => .dect (rspHi r) (rspMid r) (rspLo r)) hr
      (hrom ▸ blockFunction_dect_encw w)
  · exact exec_answers_answer (j := fun r => .dectd (rspHi r) (rspMid r) (rspLo r)) hr
      (blockFunction_dectd_encwd_of_rom s.rom w)

end Machine

end Sys2Proof
end

section
/-! PROOFS. The host's streams group by group: what one response gives to the text of ENCS and to the result of DECS
(R172, R176, R177), the recursions of the two functions that follow, and the round trip (R179). -/

namespace Sys2Proof.Machine

/-! ### The groups of a sequence -/

section
variable {α : Type} (a b c : α) (rest : List α)

theorem length_mod_2_of_group : (a :: b :: rest).length % 2 = rest.length % 2 := Nat.add_mod_right rest.length 2

theorem length_div_2_of_group : (a :: b :: rest).length / 2 = rest.length / 2 + 1 :=
  Nat.add_div_right rest.length Nat.two_pos

theorem length_mod_3_of_group : (a :: b :: c :: rest).length % 3 = rest.length % 3 := Nat.add_mod_right rest.length 3

theorem length_div_3_of_group : (a :: b :: c :: rest).length / 3 = rest.length / 3 + 1 :=
  Nat.add_div_right rest.length (Nat.succ_pos 2)

end

/-! ### ENCS, one group at a time -/

theorem rspText_of_op_1 {r : Rsp} (h : rspOp r = 0x1#4) : rspText r = [rspHi r, rspMid r, rspLo r] := by
  simp [rspText, h]

theorem rspText_of_op_2 {r : Rsp} (h : rspOp r = 0x2#4) : rspText r = [rspMid r, rspLo r] := by simp [rspText, h]

theorem rspText_encw (rom : Vector Byte 45) (w : Word) :
    rspText (blockFunction rom (encode (.encw w))) =
      [alpha rom (enc16 w).c, alpha rom (enc16 w).d, alpha rom (enc16 w).e] := by
  rw [rspText_of_op_1 (by simp), blockFunction_encw, rspHi_respond_lanes3, rspMid_respond_lanes3, rspLo_respond_lanes3]

theorem rspText_encb (rom : Vector Byte 45) (b : Byte) :
    rspText (blockFunction rom (encode (.encb b))) =
      [alpha rom (enc16 (b.setWidth 16)).c, alpha rom (enc16 (b.setWidth 16)).d] := by
  rw [rspText_of_op_2 (by simp), blockFunction_encb, rspMid_respond_lanes3, rspLo_respond_lanes3]

theorem encs_singleton (rom : Vector Byte 45) (b : Byte) :
    encs rom [b] = [alpha rom (enc16 (b.setWidth 16)).c, alpha rom (enc16 (b.setWidth 16)).d] := by
  simp [encs, encsText, encsCommands, rspText_encb]

theorem encs_cons_cons (rom : Vector Byte 45) (b0 b1 : Byte) (rest : List Byte) :
    encs rom (b0 :: b1 :: rest) = alpha rom (enc16 (wordOfBytes b0 b1)).c :: alpha rom (enc16 (wordOfBytes b0 b1)).d ::
      alpha rom (enc16 (wordOfBytes b0 b1)).e :: encs rom rest := by
  simp [encs, encsText, encsCommands, rspText_encw]

/-! ### DECS, one response at a time -/

theorem rspBytes_of_op_3 {r : Rsp} (h : rspOp r = 0x3#4) : rspBytes r = [rspMid r, rspLo r] := by simp [rspBytes, h]

theorem rspBytes_of_op_4 {r : Rsp} (h : rspOp r = 0x4#4) : rspBytes r = [rspLo r] := by simp [rspBytes, h]

/-- R176, R177: a group's bytes in front of the result of the rest: before its bytes, and dropped before its error. -/
def DecsResult.prepend (group : List Byte) : DecsResult → DecsResult
  | .bytes out => .bytes (group ++ out)
  | .error status => .error status
  | .blockFault => .blockFault

theorem DecsResult.prepend_eq_bytes_iff {group out : List Byte} {r : DecsResult} :
    r.prepend group = .bytes out ↔ ∃ rest, r = .bytes rest ∧ out = group ++ rest := by
  cases r <;> simp [prepend, eq_comm]

theorem ofCode_code (st : Status) : Status.ofCode st.code = some st := by cases st <;> rfl

/-- R177: the status of a response that is no OK is what DECS reports. -/
theorem decsError_respond (cmd : Cmd) {st : Status} (data : BitVec 24) (h : st ≠ .invalidLength) :
    decsError (respond cmd st data) = .error st := by
  simp [decsError, statusProduced_code h, ofCode_code]

theorem prepend_decsError (group : List Byte) (r : Rsp) : (decsError r).prepend group = decsError r := by
  unfold decsError
  split
  · split <;> rfl
  · rfl

/-- R177: the first response, if it is not OK, decides. -/
theorem decsResult_cons_of_ne_ok {m : Nat} {r : Rsp} {rsps : List Rsp} (h : rspStatus r ≠ 0x0#4) :
    decsResult m (r :: rsps) = decsError r := by
  simp [decsResult, h]

/-- R176, R177: a first response that is OK leaves the result to the others. -/
theorem decsResult_cons_of_ok {m : Nat} {r : Rsp} {rsps : List Rsp} (h : rspStatus r = 0x0#4) :
    decsResult (m + 3) (r :: rsps) = (decsResult m rsps).prepend (rspBytes r) := by
  have hfind : (r :: rsps).find? (fun r => rspStatus r != 0x0#4) = rsps.find? (fun r => rspStatus r != 0x0#4) := by
    simp [h]
  unfold decsResult
  rw [hfind, Nat.add_mod_right]
  split
  · exact (prepend_decsError ..).symm
  · split <;> rfl

/-! ### DECS, one group at a time -/

/-- R73: a Word's two bytes are the two low lanes of its response. -/
theorem respondWord_ok_lanes (cmd : Cmd) (b0 b1 : Byte) :
    respondWord cmd (.ok (wordOfBytes b0 b1)) = respond cmd .ok (lanes3 0x00#8 b0 b1) := by
  apply BitVec.eq_of_toNat_eq
  rw [respondWord, toNat_respond, toNat_respond, toNat_lanes3, toNat_cat, toNat_wordOfBytes]
  omega

theorem respondByte_ok_lanes (cmd : Cmd) (v : Word) :
    respondByte cmd (.ok v) = respond cmd .ok (lanes3 0x00#8 0x00#8 (v.setWidth 8)) := by
  apply BitVec.eq_of_toNat_eq
  rw [respondByte, toNat_respond, toNat_respond, toNat_lanes3, toNat_cat]
  simp only [BitVec.toNat_ofNat]
  omega

theorem exists_wordOfBytes_eq (w : Word) : ∃ b0 b1, wordOfBytes b0 b1 = w := by
  refine ⟨w.extractLsb' 8 8, w.extractLsb' 0 8, BitVec.eq_of_toNat_eq ?_⟩
  have := w.isLt
  rw [toNat_wordOfBytes, toNat_field, toNat_field]
  omega

theorem ErrorKind.status_ne_ok (k : ErrorKind) : k.status.code ≠ 0x0#4 := by cases k <;> decide

theorem ErrorKind.status_ne_invalidLength {k : ErrorKind} (h : k ≠ .invalidLength) : k.status ≠ .invalidLength := by
  cases k <;> simp_all [ErrorKind.status]

/-- R177: a first group that is answered with an error decides. -/
theorem decsResult_cons_raise {m : Nat} {cmd : Cmd} {k : ErrorKind} {rsps : List Rsp} (hk : k ≠ .invalidLength) :
    decsResult m (raise cmd k :: rsps) = .error k.status := by
  rw [raise, decsResult_cons_of_ne_ok (by rw [rspStatus_respond]; exact k.status_ne_ok),
    decsError_respond _ _ (ErrorKind.status_ne_invalidLength hk)]

section
variable {rom : Vector Byte 45} {l1 l2 l3 : Lane} {rest : List Lane}

theorem decs_triple_eq : decs rom (l1 :: l2 :: l3 :: rest) =
    decsResult (rest.length + 3)
      (respondWord (encode (.dect l1 l2 l3)) (dec3 (alphaInv rom l1) (alphaInv rom l2) (alphaInv rom l3)) ::
        (decsCommands rest).map (fun i => blockFunction rom (encode i))) := by
  rw [← blockFunction_dect]
  rfl

theorem decs_pair_eq : decs rom [l1, l2] =
    decsResult 2
      [respondByte (encode (.decp l1 l2)) (dec3 (alphaInv rom l1) (alphaInv rom l2) (some fillerDigit))] := by
  rw [← blockFunction_decp]
  rfl

theorem decs_triple_of_ok {b0 b1 : Byte}
    (h : dec3 (alphaInv rom l1) (alphaInv rom l2) (alphaInv rom l3) = .ok (wordOfBytes b0 b1)) :
    decs rom (l1 :: l2 :: l3 :: rest) = (decs rom rest).prepend [b0, b1] := by
  rw [decs_triple_eq, h, respondWord_ok_lanes, decsResult_cons_of_ok (rspStatus_respond ..),
    rspBytes_of_op_3 (by simp), rspMid_respond_lanes3, rspLo_respond_lanes3]
  rfl

theorem decs_triple_of_error {k : ErrorKind}
    (h : dec3 (alphaInv rom l1) (alphaInv rom l2) (alphaInv rom l3) = .error k) :
    decs rom (l1 :: l2 :: l3 :: rest) = .error k.status := by
  have hk : k ≠ .invalidLength := fun hk => dec3_ne_invalidLength _ _ _ (hk ▸ h)
  rw [decs_triple_eq, h]
  exact decsResult_cons_raise hk

theorem decs_pair_of_ok {v : Word} (h : dec3 (alphaInv rom l1) (alphaInv rom l2) (some fillerDigit) = .ok v) :
    decs rom [l1, l2] = .bytes [v.setWidth 8] := by
  rw [decs_pair_eq, h, respondByte_ok_lanes]
  simp [decsResult, rspBytes_of_op_4, Status.code]

theorem decs_pair_of_none (h : alphaInv rom l1 = none ∨ alphaInv rom l2 = none) :
    decs rom [l1, l2] = .error .invalidCharacter := by
  rw [decs_pair_eq, (dec3_eq_invalidCharacter_iff ..).mpr (h.imp_right .inl)]
  exact decsResult_cons_raise (by decide)

theorem decs_triple_eq_bytes {out : List Byte} (h : decs rom (l1 :: l2 :: l3 :: rest) = .bytes out) :
    ∃ b0 b1 out', dec3 (alphaInv rom l1) (alphaInv rom l2) (alphaInv rom l3) = .ok (wordOfBytes b0 b1) ∧
      decs rom rest = .bytes out' ∧ out = b0 :: b1 :: out' := by
  cases hdec : dec3 (alphaInv rom l1) (alphaInv rom l2) (alphaInv rom l3) with
  | error k => cases (decs_triple_of_error hdec).symm.trans h
  | ok w =>
    obtain ⟨b0, b1, rfl⟩ := exists_wordOfBytes_eq w
    rw [decs_triple_of_ok hdec] at h
    obtain ⟨out', hrest, hout⟩ := DecsResult.prepend_eq_bytes_iff.mp h
    exact ⟨b0, b1, out', rfl, hrest, hout⟩

/-- R144, R176: a pair that decodes is two entries of the ROM, and gives the low 8 bits of its value. -/
theorem decs_pair_eq_bytes {out : List Byte} (h : decs rom [l1, l2] = .bytes out) :
    ∃ i1 i2 : Digit, rom[i1] = l1 ∧ rom[i2] = l2 ∧ out = [BitVec.ofNat 8 (i1.val + 45 * i2.val)] := by
  cases h1 : alphaInv rom l1 with
  | none => cases (decs_pair_of_none (.inl h1)).symm.trans h
  | some i1 =>
    cases h2 : alphaInv rom l2 with
    | none => cases (decs_pair_of_none (.inr h2)).symm.trans h
    | some i2 =>
      have hv := dec3_pair i1 i2
      rw [← h1, ← h2] at hv
      cases (decs_pair_of_ok hv).symm.trans h
      exact ⟨i1, i2, alpha_of_alphaInv h1, alpha_of_alphaInv h2, by rw [BitVec.setWidth_ofNat_of_le (by decide)]⟩

end

/-! ### From bytes to text and back -/

/-- Every entry of the alphabet is found again, in the spelling of the responses. -/
theorem alphaInv_alpha (i : Digit) : alphaInv alphabet (alpha alphabet i) = some i := alphaInv_alphabet i

/-- R179: the bytes come back, by R124 for each Word and R144 for a trailing byte. -/
theorem decs_encs : ∀ bytes : List Byte, decs alphabet (encs alphabet bytes) = .bytes bytes
  | [] => rfl
  | [b] => by
    have hpair := dec3_enc16 (b.setWidth 16)
    rw [enc16_byte_e, ← alphaInv_alpha, ← alphaInv_alpha (enc16 (b.setWidth 16)).d] at hpair
    rw [encs_singleton, decs_pair_of_ok hpair, BitVec.setWidth_setWidth_of_le b (by decide), BitVec.setWidth_eq]
  | b0 :: b1 :: rest => by
    have htriple := dec3_enc16 (wordOfBytes b0 b1)
    rw [encs_cons_cons, decs_triple_of_ok (by rw [alphaInv_alpha, alphaInv_alpha, alphaInv_alpha, htriple]),
      decs_encs rest]
    rfl

/-! ### From text to bytes and back -/

/-- R123: the indices of a group that decodes are the digits of its Word. -/
theorem eq_enc16_of_dec3 {i1 i2 i3 : Option Digit} {w : Word} (h : dec3 i1 i2 i3 = .ok w) :
    i1 = some (enc16 w).c ∧ i2 = some (enc16 w).d ∧ i3 = some (enc16 w).e := by
  match i1, i2, i3 with
  | some c, some d, some e => rw [dec3_eq_ok_iff.mp h]; exact ⟨rfl, rfl, rfl⟩
  | none, _, _ => cases h
  | some _, none, _ => cases h
  | some _, some _, none => cases h

/-- R123, R124: a Word that a group of characters decodes to is encoded as that group. -/
theorem encs_of_dec3 {l1 l2 l3 : Lane} {b0 b1 : Byte} (out : List Byte)
    (h : dec3 (alphaInv alphabet l1) (alphaInv alphabet l2) (alphaInv alphabet l3) = .ok (wordOfBytes b0 b1)) :
    encs alphabet (b0 :: b1 :: out) = l1 :: l2 :: l3 :: encs alphabet out := by
  obtain ⟨hc, hd, he⟩ := eq_enc16_of_dec3 h
  rw [encs_cons_cons, alpha_of_alphaInv hc, alpha_of_alphaInv hd, alpha_of_alphaInv he]

/-- R145: the byte of a pair is encoded as that pair exactly when the pair is canonical. -/
theorem encs_pair_eq_iff (i1 i2 : Digit) :
    encs alphabet [BitVec.ofNat 8 (i1.val + 45 * i2.val)] = [alphabet[i1], alphabet[i2]] ↔
      i1.val + 45 * i2.val ≤ 255 := by
  rw [encs_singleton]
  constructor
  · intro h
    obtain ⟨hc, hd⟩ : _ ∧ _ := by simpa using h
    by_contra hgt
    exact enc16_byte_ne_of_gt (Nat.lt_of_not_le hgt) _ ⟨alphabet_injective hc, alphabet_injective hd⟩
  · intro h
    have hvalue : weightedSum i1 i2 fillerDigit = ((BitVec.ofNat 8 (i1.val + 45 * i2.val)).setWidth 16).toNat := by
      rw [weightedSum_fillerDigit, BitVec.toNat_setWidth_of_le (by decide), BitVec.toNat_ofNat]
      omega
    rw [enc16_eq_of_weightedSum hvalue]
    rfl

/-- R145, R179: the trailing pair of a text, if it has one, is canonical. -/
def TailCanonical (lanes : List Lane) : Prop :=
  ∀ (pre : List Lane) (i1 i2 : Digit), lanes = pre ++ [alphabet[i1], alphabet[i2]] → pre.length % 3 = 0 →
    i1.val + 45 * i2.val ≤ 255

theorem tailCanonical_nil : TailCanonical [] := fun pre _ _ h => by cases pre <;> cases h

theorem tailCanonical_pair_iff (i1 i2 : Digit) :
    TailCanonical [alphabet[i1], alphabet[i2]] ↔ i1.val + 45 * i2.val ≤ 255 := by
  refine ⟨fun h => h [] i1 i2 rfl rfl, fun h pre j1 j2 heq _ => ?_⟩
  obtain rfl : pre = [] := by
    have := congrArg List.length heq
    simpa using this
  obtain ⟨h1, h2⟩ : _ ∧ _ := by simpa using heq
  rwa [← alphabet_injective h1, ← alphabet_injective h2]

/-- A whole group in front of a text leaves its trailing pair what it is. -/
theorem tailCanonical_triple_iff (l1 l2 l3 : Lane) (rest : List Lane) :
    TailCanonical (l1 :: l2 :: l3 :: rest) ↔ TailCanonical rest := by
  constructor
  · rintro h pre i1 i2 rfl hpre
    exact h (l1 :: l2 :: l3 :: pre) i1 i2 rfl ((length_mod_3_of_group ..).trans hpre)
  · intro h pre i1 i2 heq hpre
    match pre with
    | [] => simp at heq
    | [_] | [_, _] => simp at hpre
    | _ :: _ :: _ :: pre =>
      obtain ⟨-, -, -, hrest⟩ : _ ∧ _ ∧ _ ∧ rest = pre ++ [alphabet[i1], alphabet[i2]] := by simpa using heq
      exact h pre i1 i2 hrest (by rwa [length_mod_3_of_group] at hpre)

/-- R179: the text comes back exactly when its trailing pair is canonical; its whole groups always do. -/
theorem encs_eq_iff_of_decs : ∀ {lanes : List Lane} {out : List Byte}, decs alphabet lanes = .bytes out →
    (encs alphabet out = lanes ↔ TailCanonical lanes)
  | [], _, h => by
    cases h
    exact iff_of_true rfl tailCanonical_nil
  | [_], _, h => nomatch h
  | [_, _], _, h => by
    obtain ⟨i1, i2, rfl, rfl, rfl⟩ := decs_pair_eq_bytes h
    rw [encs_pair_eq_iff, tailCanonical_pair_iff]
  | l1 :: l2 :: l3 :: rest, _, h => by
    obtain ⟨b0, b1, out, hgroup, hrest, rfl⟩ := decs_triple_eq_bytes h
    rw [encs_of_dec3 out hgroup, tailCanonical_triple_iff, ← encs_eq_iff_of_decs hrest]
    simp

/-- Settles O58: both directions by induction on the groups. -/
theorem streamsMakeTheRoundTrip : Obligations.StreamsMakeTheRoundTrip :=
  ⟨decs_encs, fun _ _ h => encs_eq_iff_of_decs h⟩

end Sys2Proof.Machine
end

section
/-! PROOFS. The commands that the host's streams issue: their words by their places (R171, R175). -/

namespace Sys2Proof

/-! ### The words as the rules write them -/

/-- Fields that do not overlap add up. -/
theorem toNat_or_of_lt {x y : Cmd} (k : Nat) (hx : x.toNat % 2 ^ k = 0) (hy : y.toNat < 2 ^ k) :
    (x ||| y).toNat = x.toNat + y.toNat := by
  rw [BitVec.toNat_or, ← Nat.div_add_mod x.toNat (2 ^ k), hx, Nat.add_zero, ← Nat.two_pow_add_eq_or_of_lt hy]

/-- A lane moved to its place in the word. -/
theorem toNat_lane_shift (l : Lane) {k : Nat} (hk : k ≤ 24) : (l.setWidth 32 <<< k).toNat = l.toNat * 2 ^ k := by
  have hl : l.toNat * 2 ^ k < 2 ^ 8 * 2 ^ 24 :=
    Nat.mul_lt_mul_of_lt_of_le l.isLt (Nat.pow_le_pow_right (by decide) hk) (by decide)
  rw [BitVec.toNat_shiftLeft, BitVec.toNat_setWidth_of_le (by decide), Nat.shiftLeft_eq]
  exact Nat.mod_eq_of_lt hl

theorem toNat_lane_word (l : Lane) : (l.setWidth 32).toNat = l.toNat := BitVec.toNat_setWidth_of_le (by decide)

/-- The word of a command with one operand lane. -/
theorem toNat_or_lane {c : Cmd} (hc : c.toNat % 2 ^ 8 = 0) (l : Lane) :
    (c ||| l.setWidth 32).toNat = c.toNat + l.toNat := by
  rw [toNat_or_of_lt 8 hc (by rw [toNat_lane_word]; exact l.isLt), toNat_lane_word]

/-- The word with one more lane at bit `k`. -/
theorem toNat_or_lane_shift {c : Cmd} {k : Nat} (hk : k ≤ 24) (hc : c.toNat % 2 ^ (k + 8) = 0) (l : Lane) :
    (c ||| l.setWidth 32 <<< k).toNat = c.toNat + l.toNat * 2 ^ k := by
  have hl : l.toNat * 2 ^ k < 2 ^ (k + 8) := by
    rw [Nat.pow_add, Nat.mul_comm]
    exact Nat.mul_lt_mul_of_pos_left l.isLt (Nat.two_pow_pos k)
  rw [toNat_or_of_lt (k + 8) hc (by rwa [toNat_lane_shift l hk]), toNat_lane_shift l hk]

theorem toNat_or_two_lanes {c : Cmd} (hc : c.toNat % 2 ^ 16 = 0) (l1 l2 : Lane) :
    (c ||| l1.setWidth 32 <<< 8 ||| l2.setWidth 32).toNat = c.toNat + l1.toNat * 2 ^ 8 + l2.toNat := by
  have h1 := toNat_or_lane_shift (k := 8) (by decide) hc l1
  rw [toNat_or_lane (by rw [h1]; omega), h1]

theorem toNat_or_three_lanes {c : Cmd} (hc : c.toNat % 2 ^ 24 = 0) (l1 l2 l3 : Lane) :
    (c ||| l1.setWidth 32 <<< 16 ||| l2.setWidth 32 <<< 8 ||| l3.setWidth 32).toNat =
      c.toNat + l1.toNat * 2 ^ 16 + l2.toNat * 2 ^ 8 + l3.toNat := by
  have h1 := toNat_or_lane_shift (k := 16) (by decide) hc l1
  rw [toNat_or_two_lanes (by rw [h1]; omega), h1]

namespace Machine

theorem encode_encw_eq_or (b0 b1 : Byte) :
    encode (.encw (wordOfBytes b0 b1)) = 0x10000000#32 ||| b0.setWidth 32 <<< 8 ||| b1.setWidth 32 := by
  apply BitVec.eq_of_toNat_eq
  rw [toNat_encode_encw, toNat_wordOfBytes, toNat_or_two_lanes (by decide), Nat.add_assoc]
  rfl

theorem encode_encb_eq_or (b : Byte) : encode (.encb b) = 0x20000000#32 ||| b.setWidth 32 := by
  apply BitVec.eq_of_toNat_eq
  rw [toNat_encode_encb, toNat_or_lane (by decide)]
  rfl

theorem encode_dect_eq_or (l1 l2 l3 : Lane) :
    encode (.dect l1 l2 l3) = 0x30000000#32 ||| l1.setWidth 32 <<< 16 ||| l2.setWidth 32 <<< 8 ||| l3.setWidth 32 := by
  apply BitVec.eq_of_toNat_eq
  rw [toNat_encode_dect, toNat_or_three_lanes (by decide), ← Nat.add_assoc, ← Nat.add_assoc]
  rfl

theorem encode_decp_eq_or (l1 l2 : Lane) :
    encode (.decp l1 l2) = 0x40000000#32 ||| l1.setWidth 32 <<< 8 ||| l2.setWidth 32 := by
  apply BitVec.eq_of_toNat_eq
  rw [toNat_encode_decp, toNat_or_two_lanes (by decide), ← Nat.add_assoc]
  rfl

/-! ### The commands of ENCS by their places -/

theorem length_encsCommands : ∀ b : List Byte, (encsCommands b).length = b.length / 2 + b.length % 2
  | [] => rfl
  | [_] => by simp [encsCommands]
  | b0 :: b1 :: rest => by
    rw [encsCommands, List.length_cons, length_encsCommands rest, length_div_2_of_group, length_mod_2_of_group]
    omega

/-- R171: the `k`-th command is the ENCW of the `k`-th group of two bytes. -/
theorem getElem?_encsCommands : ∀ {b : List Byte} {k : Nat} {b0 b1 : Byte}, b[2 * k]? = some b0 →
    b[2 * k + 1]? = some b1 → (encsCommands b)[k]? = some (.encw (wordOfBytes b0 b1))
  | [], _, _, _, h0, _ => nomatch h0
  | [_], _, _, _, _, h1 => nomatch h1
  | _ :: _ :: _, 0, _, _, h0, h1 => by cases h0; cases h1; rfl
  | _ :: _ :: rest, _ + 1, _, _, h0, h1 => getElem?_encsCommands (b := rest) h0 h1

/-- R171: after the groups comes the ENCB of a last byte that stands alone. -/
theorem getElem?_encsCommands_last : ∀ {b : List Byte} {b0 : Byte}, b.length % 2 = 1 → b.getLast? = some b0 →
    (encsCommands b)[b.length / 2]? = some (.encb b0)
  | [], _, hodd, _ => nomatch hodd
  | [_], _, _, h => by cases h; simp [encsCommands]
  | [_, _], _, hodd, _ => by simp at hodd
  | b0 :: b1 :: b2 :: rest, _, hodd, h => by
    rw [length_mod_2_of_group] at hodd
    rw [length_div_2_of_group]
    exact getElem?_encsCommands_last (b := b2 :: rest) hodd h

theorem getElem?_programOf {instrs : List Instr} {k : Nat} {i : Instr} (h : instrs[k]? = some i) :
    (programOf instrs)[k]? = some (encode i) := by
  rw [programOf, List.getElem?_map, h]
  rfl

theorem length_programOf (instrs : List Instr) : (programOf instrs).length = instrs.length := List.length_map ..

/-- Settles O51: the commands by their places, and their words as the rule writes them. -/
theorem encsIssuesItsGroupsInOrder : Obligations.EncsIssuesItsGroupsInOrder := by
  refine fun b => ⟨(length_programOf _).trans (length_encsCommands b), fun k b0 b1 h0 h1 => ?_, fun b0 hodd h => ?_⟩
  · rw [getElem?_programOf (getElem?_encsCommands h0 h1), encode_encw_eq_or]
  · rw [getElem?_programOf (getElem?_encsCommands_last hodd h), encode_encb_eq_or]

/-! ### The commands of DECS by their places -/

theorem length_decsCommands : ∀ s : List Lane,
    (decsCommands s).length = s.length / 3 + (if s.length % 3 = 2 then 1 else 0)
  | [] => rfl
  | [_] => by simp [decsCommands]
  | [_, _] => by simp [decsCommands]
  | l1 :: l2 :: l3 :: rest => by
    rw [decsCommands, List.length_cons, length_decsCommands rest, length_div_3_of_group, length_mod_3_of_group]
    omega

/-- R175: the `k`-th command is the DECT of the `k`-th group of three lanes. -/
theorem getElem?_decsCommands : ∀ {s : List Lane} {k : Nat} {l1 l2 l3 : Lane}, s[3 * k]? = some l1 →
    s[3 * k + 1]? = some l2 → s[3 * k + 2]? = some l3 → (decsCommands s)[k]? = some (.dect l1 l2 l3)
  | [], _, _, _, _, h1, _, _ => nomatch h1
  | [_], _, _, _, _, _, h2, _ => nomatch h2
  | [_, _], _, _, _, _, _, _, h3 => nomatch h3
  | _ :: _ :: _ :: _, 0, _, _, _, h1, h2, h3 => by cases h1; cases h2; cases h3; rfl
  | _ :: _ :: _ :: rest, _ + 1, _, _, _, h1, h2, h3 => getElem?_decsCommands (s := rest) h1 h2 h3

/-- R175: after the groups comes the DECP of a last pair. -/
theorem getElem?_decsCommands_last : ∀ {s : List Lane} {l1 l2 : Lane}, s.length % 3 = 2 →
    s[s.length - 2]? = some l1 → s[s.length - 1]? = some l2 →
    (decsCommands s)[s.length / 3]? = some (.decp l1 l2)
  | [], _, _, hpair, _, _ => nomatch hpair
  | [_], _, _, hpair, _, _ => nomatch hpair
  | [_, _], _, _, _, h1, h2 => by cases h1; cases h2; simp [decsCommands]
  | [_, _, _], _, _, hpair, _, _ => by simp at hpair
  | [_, _, _, _], _, _, hpair, _, _ => by simp at hpair
  | a :: b :: c :: d :: e :: rest, _, _, hpair, h1, h2 => by
    rw [length_mod_3_of_group] at hpair
    rw [length_div_3_of_group]
    exact getElem?_decsCommands_last (s := d :: e :: rest) hpair h1 h2

/-- Settles O54: the commands by their places, and their words as the rule writes them. -/
theorem decsIssuesItsGroupsInOrder : Obligations.DecsIssuesItsGroupsInOrder := by
  refine fun s => ⟨(length_programOf _).trans (length_decsCommands s), fun k l1 l2 l3 h1 h2 h3 => ?_,
    fun l1 l2 hpair h1 h2 => ?_⟩
  · rw [getElem?_programOf (getElem?_decsCommands h1 h2 h3), encode_dect_eq_or]
  · rw [getElem?_programOf (getElem?_decsCommands_last hpair h1 h2), encode_decp_eq_or]

end Machine

end Sys2Proof
end

section
/-! PROOFS. What the host makes of the responses: the laws of the text of ENCS (R172, R173), the result of DECS (R174,
R176 to R178), and both run through the block (R170). -/

namespace Sys2Proof.Machine

/-! ### ENCS never fails -/

theorem mem_encsCommands : ∀ {bytes : List Byte} {i : Instr}, i ∈ encsCommands bytes →
    (∃ w, i = .encw w) ∨ ∃ b, i = .encb b
  | [], _, h => nomatch h
  | [_], _, h => .inr ⟨_, List.mem_singleton.mp h⟩
  | _ :: _ :: _, _, h => (List.mem_cons.mp h).elim (fun h => .inl ⟨_, h⟩) mem_encsCommands

/-- R105, R173: every command of ENCS is answered OK. -/
theorem rspStatus_of_mem_encsCommands {bytes : List Byte} {i : Instr} (h : i ∈ encsCommands bytes)
    (rom : Vector Byte 45) : rspStatus (blockFunction rom (encode i)) = 0x0#4 := by
  rcases mem_encsCommands h with ⟨w, rfl⟩ | ⟨b, rfl⟩
  · rw [blockFunction_encw, rspStatus_respond]
    rfl
  · rw [blockFunction_encb, rspStatus_respond]
    rfl

/-- R172: with no other kind of response, the kinds are told apart by one test of the op. -/
theorem rspText_of_mem_encsCommands {bytes : List Byte} {i : Instr} (h : i ∈ encsCommands bytes)
    (rom : Vector Byte 45) :
    rspText (blockFunction rom (encode i)) =
      if rspOp (blockFunction rom (encode i)) = 0x1#4 then
        [rspHi (blockFunction rom (encode i)), rspMid (blockFunction rom (encode i)),
          rspLo (blockFunction rom (encode i))]
      else [rspMid (blockFunction rom (encode i)), rspLo (blockFunction rom (encode i))] := by
  rcases mem_encsCommands h with ⟨w, rfl⟩ | ⟨b, rfl⟩
  · rw [rspText_of_op_1 (by simp), if_pos (by simp)]
  · rw [rspText_of_op_2 (by simp), if_neg (by simp)]

/-- R173, the length law. -/
theorem length_encs (rom : Vector Byte 45) : ∀ bytes : List Byte,
    (encs rom bytes).length = 3 * (bytes.length / 2) + (if bytes.length % 2 = 1 then 2 else 0)
  | [] => rfl
  | [_] => by simp [encs_singleton]
  | _ :: _ :: rest => by
    rw [length_div_2_of_group, length_mod_2_of_group, Nat.mul_succ, Nat.add_right_comm, ← length_encs rom rest,
      encs_cons_cons]
    rfl

/-- R173, the alphabet closure. -/
theorem mem_encs {rom : Vector Byte 45} :
    ∀ {bytes : List Byte} {l : Lane}, l ∈ encs rom bytes → ∃ i : Digit, rom[i] = l
  | [], _, h => nomatch h
  | [_], _, h => by
    rw [encs_singleton] at h
    simp only [List.mem_cons, List.not_mem_nil, or_false] at h
    rcases h with rfl | rfl <;> exact ⟨_, rfl⟩
  | b0 :: b1 :: rest, _, h => by
    rw [encs_cons_cons] at h
    simp only [List.mem_cons] at h
    rcases h with rfl | rfl | rfl | h
    · exact ⟨_, rfl⟩
    · exact ⟨_, rfl⟩
    · exact ⟨_, rfl⟩
    · exact mem_encs h

/-- Settles O52: the kinds of its commands, and the recursion of ENCS for the length and the alphabet. -/
theorem encsNeverFailsAndKeepsItsLaws : Obligations.EncsNeverFailsAndKeepsItsLaws := by
  refine fun bytes => ⟨fun i hi => ⟨legal_encode i, rspStatus_of_mem_encsCommands hi alphabet⟩, ?text,
    length_encs alphabet bytes, ?_, fun l hl => mem_encs hl⟩
  case text =>
    refine List.flatMap_congr ?_
    rw [List.forall_mem_map]
    exact fun i hi => rspText_of_mem_encsCommands hi alphabet
  · rw [length_encs]
    split <;> omega

/-! ### The responses of DECS -/

theorem mem_decsCommands : ∀ {lanes : List Lane} {i : Instr}, i ∈ decsCommands lanes →
    (∃ l1 l2 l3, i = .dect l1 l2 l3) ∨ ∃ l1 l2, i = .decp l1 l2
  | [], _, h => nomatch h
  | [_], _, h => nomatch h
  | [_, _], _, h => .inr ⟨_, _, List.mem_singleton.mp h⟩
  | _ :: _ :: _ :: _, _, h => (List.mem_cons.mp h).elim (fun h => .inl ⟨_, _, _, h⟩) mem_decsCommands

/-- R176: with no other kind of response, the kinds are told apart by one test of the op. -/
theorem rspBytes_of_mem_decsCommands {lanes : List Lane} {i : Instr} (h : i ∈ decsCommands lanes)
    (rom : Vector Byte 45) :
    rspBytes (blockFunction rom (encode i)) =
      if rspOp (blockFunction rom (encode i)) = 0x3#4 then
        [rspMid (blockFunction rom (encode i)), rspLo (blockFunction rom (encode i))]
      else [rspLo (blockFunction rom (encode i))] := by
  rcases mem_decsCommands h with ⟨l1, l2, l3, rfl⟩ | ⟨l1, l2, rfl⟩
  · rw [rspBytes_of_op_3 (by simp), if_pos (by simp)]
  · rw [rspBytes_of_op_4 (by simp), if_neg (by simp)]

/-- R176: the length of the output, whatever the bytes. -/
theorem length_flatMap_rspBytes (rom : Vector Byte 45) : ∀ lanes : List Lane,
    (((decsCommands lanes).map (fun i => blockFunction rom (encode i))).flatMap rspBytes).length =
      2 * (lanes.length / 3) + (if lanes.length % 3 = 2 then 1 else 0)
  | [] => rfl
  | [_] => by simp [decsCommands]
  | [l1, l2] => by simp [decsCommands, rspBytes_of_op_4]
  | l1 :: l2 :: l3 :: rest => by
    rw [length_div_3_of_group, length_mod_3_of_group, Nat.mul_succ, Nat.add_right_comm,
      ← length_flatMap_rspBytes rom rest]
    simp [decsCommands, rspBytes_of_op_3]

/-! ### The result of DECS -/

/-- R177: the first response that is not OK decides. -/
theorem decsResult_of_first {m : Nat} {pre post : List Rsp} {r : Rsp} (hpre : ∀ p ∈ pre, rspStatus p = 0x0#4)
    (hr : rspStatus r ≠ 0x0#4) : decsResult m (pre ++ r :: post) = decsError r := by
  have hnone : pre.find? (fun r => rspStatus r != 0x0#4) = none := by simpa using hpre
  simp [decsResult, List.find?_append, hnone, hr]

/-- R176, R177: with every response OK, the number of lanes decides. -/
theorem decsResult_of_all_ok {m : Nat} {rsps : List Rsp} (h : ∀ r ∈ rsps, rspStatus r = 0x0#4) :
    decsResult m rsps = if m % 3 = 1 then .error .invalidLength else .bytes (rsps.flatMap rspBytes) := by
  have hnone : rsps.find? (fun r => rspStatus r != 0x0#4) = none := by simpa using h
  rw [decsResult, hnone]

/-- R177: either every response is OK, or there is a first that is not. -/
theorem all_ok_or_first (rsps : List Rsp) : (∀ r ∈ rsps, rspStatus r = 0x0#4) ∨
    ∃ pre r post, rsps = pre ++ r :: post ∧ (∀ p ∈ pre, rspStatus p = 0x0#4) ∧ rspStatus r ≠ 0x0#4 := by
  cases hfind : rsps.find? (fun r => rspStatus r != 0x0#4) with
  | none => exact .inl (by simpa using hfind)
  | some r =>
    obtain ⟨hr, pre, post, heq, hpre⟩ := List.find?_eq_some_iff_append.mp hfind
    exact .inr ⟨pre, r, post, heq, by simpa using hpre, by simpa using hr⟩

/-- R178: responses after the first that is not OK add nothing. -/
theorem decsResult_append_of_exists {m : Nat} {pre : List Rsp} (post : List Rsp)
    (h : ∃ r ∈ pre, rspStatus r ≠ 0x0#4) : decsResult m (pre ++ post) = decsResult m pre := by
  rcases all_ok_or_first pre with hok | ⟨pre', r, rest, rfl, hpre, hr⟩
  · obtain ⟨r, hr, hne⟩ := h
    exact absurd (hok r hr) hne
  · rw [List.append_assoc, List.cons_append, decsResult_of_first hpre hr, decsResult_of_first hpre hr]

/-- Settles O57: the responses beyond the first `k` come after one that is not OK. -/
theorem stoppingEarlyGivesTheSameResult : Obligations.StoppingEarlyGivesTheSameResult := by
  intro m rsps k h
  have := decsResult_append_of_exists (m := m) (rsps.drop k) h
  rwa [List.take_append_drop, eq_comm] at this

/-- Settles O55: with every response OK the result is the bytes of the responses. -/
theorem decsOutputsTheBytesOfItsGroups : Obligations.DecsOutputsTheBytesOfItsGroups := by
  refine ⟨fun lanes hok hlen => ⟨_, ?result, ?bytes, length_flatMap_rspBytes alphabet lanes⟩, rfl⟩
  case result =>
    rw [decs, decsResult_of_all_ok (List.forall_mem_map.mpr hok), if_neg hlen]
  case bytes =>
    refine List.flatMap_congr ?_
    rw [List.forall_mem_map]
    exact fun i hi => rspBytes_of_mem_decsCommands hi alphabet

/-! ### The errors of DECS -/

/-- R177: DECS reports the error whose status the response carries. -/
theorem decsError_eq {r : Rsp} {st : Status} (hst : st ≠ .invalidLength) (h : rspStatus r = st.code) :
    decsError r = .error st := by
  simp [decsError, h, statusProduced_code hst, ofCode_code]

theorem rspStatus_respondWord_dec3 (cmd : Cmd) (i1 i2 i3 : Option Digit) :
    rspStatus (respondWord cmd (dec3 i1 i2 i3)) = 0x0#4 ∨ rspStatus (respondWord cmd (dec3 i1 i2 i3)) = 0x2#4 ∨
      rspStatus (respondWord cmd (dec3 i1 i2 i3)) = 0x3#4 := by
  unfold dec3
  split
  · split
    · exact .inr (.inr (rspStatus_respond ..))
    · exact .inl (rspStatus_respond ..)
  · exact .inr (.inl (rspStatus_respond ..))

theorem rspStatus_respondByte_dec3 (cmd : Cmd) (i1 i2 : Option Digit) :
    rspStatus (respondByte cmd (dec3 i1 i2 (some fillerDigit))) = 0x0#4 ∨
      rspStatus (respondByte cmd (dec3 i1 i2 (some fillerDigit))) = 0x2#4 := by
  rcases dec3_pair_cases i1 i2 with h | ⟨v, h⟩
  · rw [h]
    exact .inr (rspStatus_respond ..)
  · rw [h]
    exact .inl (rspStatus_respond ..)

/-- R177: every command of DECS is legal, so its response is OK, InvalidCharacter or InvalidCode. -/
theorem rspStatus_of_mem_decsCommands {lanes : List Lane} {i : Instr} (h : i ∈ decsCommands lanes)
    (rom : Vector Byte 45) :
    rspStatus (blockFunction rom (encode i)) = 0x0#4 ∨ rspStatus (blockFunction rom (encode i)) = 0x2#4 ∨
      rspStatus (blockFunction rom (encode i)) = 0x3#4 := by
  rcases mem_decsCommands h with ⟨l1, l2, l3, rfl⟩ | ⟨l1, l2, rfl⟩
  · rw [blockFunction_dect]
    exact rspStatus_respondWord_dec3 ..
  · rw [blockFunction_decp]
    exact (rspStatus_respondByte_dec3 ..).imp_right .inl

/-- R177: the first command whose response carries an error's status decides. -/
theorem decs_of_first {rom : Vector Byte 45} {lanes : List Lane} {pre post : List Instr} {i : Instr} {st : Status}
    (hcmds : decsCommands lanes = pre ++ i :: post)
    (hpre : ∀ j ∈ pre, rspStatus (blockFunction rom (encode j)) = 0x0#4)
    (hi : rspStatus (blockFunction rom (encode i)) = st.code) (hst : st ≠ .invalidLength) (hok : st.code ≠ 0x0#4) :
    decs rom lanes = .error st := by
  rw [decs, hcmds, List.map_append, List.map_cons,
    decsResult_of_first (List.forall_mem_map.mpr hpre) (hi ▸ hok), decsError_eq hst hi]

/-- R177: the ways a DECS can end. -/
theorem decs_cases (rom : Vector Byte 45) (lanes : List Lane) :
    (∃ out, decs rom lanes = .bytes out ∧ lanes.length % 3 ≠ 1 ∧
      ∀ i ∈ decsCommands lanes, rspStatus (blockFunction rom (encode i)) = 0x0#4) ∨
    decs rom lanes = .error .invalidLength ∨ decs rom lanes = .error .invalidCharacter ∨
    decs rom lanes = .error .invalidCode := by
  rcases all_ok_or_first ((decsCommands lanes).map fun i => blockFunction rom (encode i)) with
    hok | ⟨pre, r, post, heq, hpre, hr⟩
  · have hdecs := decsResult_of_all_ok (m := lanes.length) hok
    by_cases hlen : lanes.length % 3 = 1
    · exact .inr (.inl (hdecs.trans (if_pos hlen)))
    · exact .inl ⟨_, hdecs.trans (if_neg hlen), hlen, List.forall_mem_map.mp hok⟩
  · have hdecs : decs rom lanes = decsError r := by rw [decs, heq, decsResult_of_first hpre hr]
    obtain ⟨i, hi, rfl⟩ : ∃ i ∈ decsCommands lanes, blockFunction rom (encode i) = r :=
      List.mem_map.mp (by simp [heq])
    rcases rspStatus_of_mem_decsCommands hi rom with h | h | h
    · exact absurd h hr
    · exact .inr (.inr (.inl (hdecs.trans (decsError_eq nofun h))))
    · exact .inr (.inr (.inr (hdecs.trans (decsError_eq nofun h))))

/-- Settles O56: by the first response that is not OK; the examples are closed texts. -/
theorem decsReportsTheFirstError : Obligations.DecsReportsTheFirstError := by
  refine ⟨fun lanes pre post i hcmds hpre => ⟨fun h => ?_, fun h => ?_⟩, fun lanes hok hlen => ?_,
    decs_cases alphabet, by decide, by decide, by decide⟩
  · exact decs_of_first hcmds hpre (st := .invalidCharacter) h nofun (by decide)
  · exact decs_of_first hcmds hpre (st := .invalidCode) h nofun (by decide)
  · rw [decs, decsResult_of_all_ok (List.forall_mem_map.mpr hok), if_pos hlen]

/-! ### The characters of DECS -/

theorem alphabet_ne_zero : ∀ i : Digit, alphabet[i] ≠ 0x00#8 := by decide

/-- Settles O53: a code below 256 is its own low 8 bits, and 0x00 is no entry of the alphabet. -/
theorem wideCharactersAreNeverCut : Obligations.WideCharactersAreNeverCut := by
  refine fun ch => ⟨fun h => ?narrow, fun h => ?wide⟩
  case narrow =>
    rw [laneOfChar, if_pos h]
    exact Nat.mod_eq_of_lt h
  case wide =>
    have hzero : laneOfChar ch = 0x00#8 := if_neg (by omega)
    exact ⟨hzero, hzero ▸ alphabet_ne_zero⟩

/-! ### The streams on the block -/

/-- R170: a host loop whose program is a list of commands, started with nothing exchanged, drains with all of them
accepted and the block function of each received. -/
theorem hostLoop_runs_program {s : State} (hI : s.Inv) (hscript : s.host.script = []) (hheld : s.host.held = none)
    (hissued : s.host.issued = []) {instrs : List Instr} (hprog : s.host.program = programOf instrs) :
    ∃ n s', runEdges n s = .next s' ∧ s'.drained = true ∧ s'.host.program = [] ∧
      s'.host.issued = programOf instrs ∧
      s'.host.received = instrs.map (fun i => blockFunction alphabet (encode i)) := by
  obtain ⟨n, s', hrun, hdrained, hempty, hissued', hreceived⟩ := theHostLoopDrains s hI hscript
  have hall : s'.host.issued = programOf instrs := by simpa [hissued, hheld, hprog] using hissued'
  refine ⟨n, s', hrun, hdrained, hempty, hall, ?_⟩
  rw [hreceived, hall, programOf, List.map_map]
  rfl

/-- Settles O59: the responses that the host loop receives are those the stream functions are made of. -/
theorem streamsRunOnTheBlock : Obligations.StreamsRunOnTheBlock := by
  refine fun s hI hscript hheld hissued _ _ => ⟨fun bytes hprog => ?encs, fun lanes hprog => ?decs⟩
  case encs =>
    obtain ⟨n, s', hrun, hdrained, hempty, hall, hreceived⟩ := hostLoop_runs_program hI hscript hheld hissued hprog
    exact ⟨n, s', hrun, hdrained, hempty, hall, congrArg encsText hreceived⟩
  case decs =>
    obtain ⟨n, s', hrun, hdrained, hempty, hall, hreceived⟩ := hostLoop_runs_program hI hscript hheld hissued hprog
    exact ⟨n, s', hrun, hdrained, hempty, hall, congrArg (decsResult lanes.length) hreceived⟩

end Sys2Proof.Machine
end

section
/-! PROOFS. Errors and faults: which words are IllegalCommand (R204), the one error of a command by its priority (R201,
R202, R205), the faults of the block by name and that no step shows one (R208), and the stopped clock (R213). -/

namespace Sys2Proof

/-! ### The words that are illegal -/

/-- R63, R65: an op is unassigned when it is of no command with two operand bytes, one or three. -/
theorem op_unassigned_iff (op : BitVec 4) :
    op ∈ [0x0#4, 0x5#4, 0x6#4, 0x7#4, 0x8#4, 0xD#4, 0xE#4, 0xF#4] ↔
      op ∉ [0x1#4, 0x9#4, 0x4#4, 0xC#4] ∧ op ∉ [0x2#4, 0xA#4] ∧ op ∉ [0x3#4, 0xB#4] := by
  decide +revert

theorem op_operand_bytes_unique (op : BitVec 4) :
    (op ∈ [0x1#4, 0x9#4, 0x4#4, 0xC#4] → op ∉ [0x2#4, 0xA#4] ∧ op ∉ [0x3#4, 0xB#4]) ∧
      (op ∈ [0x2#4, 0xA#4] → op ∉ [0x3#4, 0xB#4]) := by
  decide +revert

/-- R204: a word is illegal for one of the three causes of the rule. -/
theorem legal_eq_false_iff_cases (cmd : Cmd) :
    legal cmd = false ↔
      cmdRsv cmd ≠ 0#4 ∨ cmdOp cmd ∈ [0x0#4, 0x5#4, 0x6#4, 0x7#4, 0x8#4, 0xD#4, 0xE#4, 0xF#4] ∨
        (cmdOp cmd ∈ [0x1#4, 0x9#4, 0x4#4, 0xC#4] ∧ laneHi cmd ≠ 0#8) ∨
        (cmdOp cmd ∈ [0x2#4, 0xA#4] ∧ cmd.extractLsb' 8 16 ≠ 0#16) := by
  rw [← Bool.not_eq_true, legal_iff_cases, op_unassigned_iff, not_and_or]
  refine or_congr_right ?_
  obtain ⟨hofTwo, hofOne⟩ := op_operand_bytes_unique (cmdOp cmd)
  by_cases htwo : cmdOp cmd ∈ [0x1#4, 0x9#4, 0x4#4, 0xC#4]
  · obtain ⟨hone, hthree⟩ := hofTwo htwo
    simp only [htwo, hone, hthree, true_and, false_and, or_false, false_or, not_true_eq_false, ne_eq]
  · by_cases hone : cmdOp cmd ∈ [0x2#4, 0xA#4]
    · simp only [htwo, hone, hofOne hone, true_and, false_and, and_false, or_false, false_or, not_true_eq_false, ne_eq]
    · simp only [htwo, hone, true_and, false_and, or_false, false_or, not_false_eq_true]

namespace Machine

/-- Settles O5: the complement of LEGAL's case list, and the block function of an illegal word. -/
theorem illegalWordsAreAnsweredIllegalCommand : Obligations.IllegalWordsAreAnsweredIllegalCommand := fun cmd =>
  ⟨legal_eq_false_iff_cases cmd, fun hl _ hr => runCommand_answers_illegalCommand hr hl rfl⟩

/-! ### The one error of a command -/

/-- R41, R122: what the decoder reads from a lane is the lane's index. -/
theorem laneIn_alphabet_eq_some_iff (digitMode : Bool) (l : Lane) (i : Digit) :
    laneIn digitMode alphabet l = some i ↔ laneHasIndex digitMode l i := by
  cases digitMode with
  | false => exact alphaInv_alphabet_eq_some_iff l i
  | true => exact digitOfLane_eq_some_iff l i

theorem laneIn_alphabet_eq_none_iff (digitMode : Bool) (l : Lane) :
    laneIn digitMode alphabet l = none ↔ laneHasNone digitMode l := by
  simp only [Option.eq_none_iff_forall_ne_some, ne_eq, laneIn_alphabet_eq_some_iff, laneHasNone]

@[simp] theorem rspStatus_raise (cmd : Cmd) (k : ErrorKind) : rspStatus (raise cmd k) = k.status.code :=
  rspStatus_respond ..

@[simp] theorem rspData_raise (cmd : Cmd) (k : ErrorKind) : rspData (raise cmd k) = 0#24 := rspData_respond ..

theorem respondWord_ok_or_raise (cmd : Cmd) (r : Except ErrorKind Word) :
    (∃ data, respondWord cmd r = respond cmd .ok data) ∨ ∃ k, respondWord cmd r = raise cmd k :=
  match r with
  | .ok _ => .inl ⟨_, rfl⟩
  | .error k => .inr ⟨k, rfl⟩

theorem respondByte_ok_or_raise (cmd : Cmd) (r : Except ErrorKind Word) :
    (∃ data, respondByte cmd r = respond cmd .ok data) ∨ ∃ k, respondByte cmd r = raise cmd k :=
  match r with
  | .ok _ => .inl ⟨_, rfl⟩
  | .error k => .inr ⟨k, rfl⟩

/-- R200: a response is one with status OK or the answer to an error. -/
theorem blockFunction_ok_or_raise (rom : Vector Byte 45) (cmd : Cmd) :
    (∃ data, blockFunction rom cmd = respond cmd .ok data) ∨ ∃ k, blockFunction rom cmd = raise cmd k := by
  cases hl : legal cmd with
  | false => exact .inr ⟨_, blockFunction_of_illegal rom cmd hl⟩
  | true =>
    obtain ⟨i, hi⟩ := decode_of_legal hl
    rw [← encode_of_decode hi]
    cases i with
    | encw w => exact .inl ⟨_, blockFunction_encw rom w⟩
    | encb b => exact .inl ⟨_, blockFunction_encb rom b⟩
    | dect l1 l2 l3 => rw [blockFunction_dect]; exact respondWord_ok_or_raise ..
    | decp l1 l2 => rw [blockFunction_decp]; exact respondByte_ok_or_raise ..
    | encwd w => exact .inl ⟨_, blockFunction_encwd rom w⟩
    | encbd b => exact .inl ⟨_, blockFunction_encbd rom b⟩
    | dectd l1 l2 l3 => rw [blockFunction_dectd]; exact respondWord_ok_or_raise ..
    | decpd l1 l2 => rw [blockFunction_decpd]; exact respondByte_ok_or_raise ..

/-- R200: with an error, the data is zero. -/
theorem rspData_blockFunction_of_error {rom : Vector Byte 45} {cmd : Cmd}
    (h : rspStatus (blockFunction rom cmd) ≠ 0x0#4) : rspData (blockFunction rom cmd) = 0#24 := by
  rcases blockFunction_ok_or_raise rom cmd with ⟨data, hok⟩ | ⟨k, hk⟩
  · exact absurd (hok ▸ rspStatus_respond cmd .ok data) h
  · rw [hk, rspData_raise]

theorem rspStatus_of_illegal (rom : Vector Byte 45) {cmd : Cmd} (hl : legal cmd = false) :
    rspStatus (blockFunction rom cmd) = 0x4#4 := by
  rw [blockFunction_of_illegal rom cmd hl]
  exact rspStatus_raise cmd .illegalCommand

section
variable {cmd : Cmd} (hl : legal cmd = true)
include hl

/-- R105: an encoder reports no error. -/
theorem rspStatus_of_encoder (rom : Vector Byte 45) (hfn : cmdFn cmd = 1#3 ∨ cmdFn cmd = 2#3) :
    rspStatus (blockFunction rom cmd) = 0x0#4 := by
  rcases hfn with hfn | hfn
  · rw [blockFunction_of_fn1 rom cmd hl hfn]
    exact rspStatus_respond ..
  · rw [blockFunction_of_fn2 rom cmd hl hfn]
    exact rspStatus_respond ..

/-- R201: InvalidCharacter of a triple. -/
theorem rspStatus_of_triple_none (hfn : cmdFn cmd = 3#3)
    (h : ∃ l ∈ [laneHi cmd, laneMid cmd, laneLo cmd], laneHasNone (cmdDigitMode cmd) l) :
    rspStatus (blockFunction alphabet cmd) = 0x2#4 := by
  have hnone := index_eq_none_of_mem (fun l => (laneIn_alphabet_eq_none_iff (cmdDigitMode cmd) l).mpr) h
  rw [blockFunction_of_fn3 alphabet cmd hl hfn, (dec3_eq_invalidCharacter_iff ..).mpr hnone]
  exact rspStatus_raise cmd .invalidCharacter

/-- R202: InvalidCode of a triple, or none. -/
theorem rspStatus_of_triple_some (hfn : cmdFn cmd = 3#3) {i1 i2 i3 : Digit}
    (h1 : laneHasIndex (cmdDigitMode cmd) (laneHi cmd) i1) (h2 : laneHasIndex (cmdDigitMode cmd) (laneMid cmd) i2)
    (h3 : laneHasIndex (cmdDigitMode cmd) (laneLo cmd) i3) :
    (65535 < weightedSum i1 i2 i3 → rspStatus (blockFunction alphabet cmd) = 0x3#4) ∧
      (weightedSum i1 i2 i3 ≤ 65535 → rspStatus (blockFunction alphabet cmd) = 0x0#4) := by
  rw [← laneIn_alphabet_eq_some_iff] at h1 h2 h3
  rw [blockFunction_of_fn3 alphabet cmd hl hfn, h1, h2, h3]
  constructor <;> intro hv
  · rw [dec3_of_gt hv]
    exact rspStatus_raise cmd .invalidCode
  · rw [dec3_of_le hv]
    exact rspStatus_respond ..

/-- R201: InvalidCharacter of a pair. -/
theorem rspStatus_of_pair_none (hfn : cmdFn cmd = 4#3)
    (h : ∃ l ∈ [laneMid cmd, laneLo cmd], laneHasNone (cmdDigitMode cmd) l) :
    rspStatus (blockFunction alphabet cmd) = 0x2#4 := by
  have hnone := index_eq_none_of_mem_pair (fun l => (laneIn_alphabet_eq_none_iff (cmdDigitMode cmd) l).mpr) h
  rw [blockFunction_of_fn4 alphabet cmd hl hfn, (dec3_eq_invalidCharacter_iff ..).mpr (hnone.imp_right .inl)]
  exact rspStatus_raise cmd .invalidCharacter

/-- R202: a pair whose lanes both have an index reports no error. -/
theorem rspStatus_of_pair_some (hfn : cmdFn cmd = 4#3) {i1 i2 : Digit}
    (h1 : laneHasIndex (cmdDigitMode cmd) (laneMid cmd) i1) (h2 : laneHasIndex (cmdDigitMode cmd) (laneLo cmd) i2) :
    rspStatus (blockFunction alphabet cmd) = 0x0#4 := by
  rw [← laneIn_alphabet_eq_some_iff] at h1 h2
  rw [blockFunction_of_fn4 alphabet cmd hl hfn, h1, h2, dec3_pair]
  exact rspStatus_respond ..

end

/-- Settles O18: the response is the block function, whose status follows `LEGAL`, then `fn`, then the indices of the
lanes. -/
theorem errorsComeInTheirPriority : Obligations.ErrorsComeInTheirPriority := by
  intro cmd s hr hrom
  obtain ⟨s', hrun, hans⟩ := runCommand_answers (rsp := blockFunction alphabet cmd) hr (by rw [hrom])
  refine ⟨s', _, hrun, hans, rspStatus_of_illegal alphabet,
    fun hl => ⟨rspStatus_of_encoder hl alphabet, ?triple, ?pair⟩, rspData_blockFunction_of_error⟩
  case triple =>
    exact fun hfn => ⟨rspStatus_of_triple_none hl hfn, fun _ _ _ => rspStatus_of_triple_some hl hfn⟩
  case pair =>
    exact fun hfn => ⟨rspStatus_of_pair_none hl hfn, fun _ _ => rspStatus_of_pair_some hl hfn⟩

/-! ### The faults of the block -/

theorem statusProduced_iff_mem (code : BitVec 4) :
    statusProduced code = true ↔ code ∈ [0x0#4, 0x2#4, 0x3#4, 0x4#4] := by
  decide +revert

section
variable {issued : List Cmd} {received : List Rsp} {rsp : Rsp}

theorem responseFault_of_unrequested (h : issued.length ≤ received.length) :
    responseFault issued received rsp = some .responseUnrequested := by
  simp [responseFault, List.getElem?_eq_none h]

variable {cmd : Cmd} (hcmd : issued[received.length]? = some cmd)
include hcmd

theorem responseFault_of_status (h : rspStatus rsp ∉ [0x0#4, 0x2#4, 0x3#4, 0x4#4]) :
    responseFault issued received rsp = some .responseStatus := by
  rw [← statusProduced_iff_mem] at h
  simp [responseFault, hcmd, h]

theorem responseFault_of_echo (h : rspStatus rsp ∈ [0x0#4, 0x2#4, 0x3#4, 0x4#4]) (hop : rspOp rsp ≠ cmdOp cmd) :
    responseFault issued received rsp = some .responseEcho := by
  rw [← statusProduced_iff_mem] at h
  simp [responseFault, hcmd, h, hop]

end

theorem deliver_of_changed {s : State} {r rsp : Rsp} (rdy : Bool) (ho : s.offered = some rsp)
    (hseen : s.host.seen = some r) (hne : r ≠ rsp) : deliver rdy s = .fault .responseChanged := by
  simp [deliver, ho, hseen, hne]

theorem deliver_of_responseFault {s : State} {rsp : Rsp} {f : Fault} (ho : s.offered = some rsp)
    (hseen : s.host.seen = none) (h : responseFault s.host.issued s.host.received rsp = some f) :
    deliver true s = .fault f := by
  simp [deliver, ho, hseen, h]

/-- Settles O45: the head of `Q`, its wait over, is on offer; the faults by the order in which they are looked for. -/
theorem faultyBlocksAreNamed : Obligations.FaultyBlocksAreNamed := by
  intro s rsp rest hq
  have ho : s.offered = some rsp := State.offered_of_q_eq_cons hq
  exact ⟨fun r rdy => deliver_of_changed rdy ho, fun hseen =>
    ⟨fun h => deliver_of_responseFault ho hseen (responseFault_of_unrequested h), fun cmd hcmd =>
      ⟨fun h => deliver_of_responseFault ho hseen (responseFault_of_status hcmd h),
        fun h hop => deliver_of_responseFault ho hseen (responseFault_of_echo hcmd h hop)⟩⟩⟩

theorem clockEdge_of_rst {e : Edge} {s : State} (hu : e.cmdValid = true → e.cmdData ≠ none) (hrst : e.rst = true) :
    clockEdge e s = .next s.resetAssert := by
  have hun : ¬ (e.cmdValid && e.cmdData.isNone) = true := by simpa using hu
  rw [clockEdge, if_neg hun, if_pos hrst]

/-- R208: an edge is refused for what the host does, or answers a next state. -/
theorem State.Inv.clockEdge_ne_fault {s : State} (h : s.Inv) (e : Edge) (f : Fault) : clockEdge e s ≠ .fault f := by
  by_cases hu : e.cmdValid = true → e.cmdData ≠ none
  · cases hrst : e.rst with
    | true => simp [clockEdge_of_rst hu hrst]
    | false =>
      cases hd : dutyBroken s.host.held e with
      | none =>
        obtain ⟨t, ht⟩ := h.clockEdge_next hu hd
        simp [ht]
      | some r => simp [clockEdge_of_dutyBroken hu hrst hd]
  · obtain ⟨hv, hn⟩ : e.cmdValid = true ∧ e.cmdData = none := by simpa using hu
    simp [clockEdge_of_undriven hv hn]

theorem step_of_clockStop {s : State} (h : s.host.nextEvent = .clockStop) : step s = .refused .clockStopped := by
  simp [step, nextEdge, hostEvent, h]

/-- Settles O44: the next event is an edge, which from the invariant is no fault, or a stopped clock. -/
theorem noStepShowsAFaultyBlock : Obligations.NoStepShowsAFaultyBlock := by
  intro s f hI
  cases he : s.host.nextEvent with
  | edge e => rw [step_of_edge he]; exact hI.advance.clockEdge_ne_fault e f
  | clockStop => simp [step_of_clockStop he]

/-- Settles O50, by the definition of the step. -/
theorem stoppedClockIsRefused : Obligations.StoppedClockIsRefused := fun _ h => step_of_clockStop h

end Machine

end Sys2Proof
end

section
/-! PROOFS. An edge with `rst = 1` (R231): what the block drives in its cycle, and what it leaves behind. -/

namespace Sys2Proof.Machine

@[simp] theorem State.cmdReady_true (s : State) : s.cmdReady true = false := rfl

@[simp] theorem State.rspValid_true (s : State) : s.rspValid true = false := rfl

theorem State.rspValid_of_q_eq_nil {s : State} (h : s.q = []) (rst : Bool) : s.rspValid rst = false := by
  simp [State.rspValid, State.offered_of_q_eq_nil h]

/-- R231: whatever the state, an edge with `rst = 1` and no undriven command is the reset alone. -/
theorem step_of_rst {s : State} {e : Edge} (he : s.host.nextEvent = .edge e) (hrst : e.rst = true)
    (hu : e.cmdValid = true → e.cmdData ≠ none) : step s = .next s.advance.resetAssert :=
  (step_of_edge he).trans (clockEdge_of_rst hu hrst)

/-- Settles O36: both outputs are low while `rst` is high, and the step is the reset, which empties `Q` and the host's
record. -/
theorem resetEdgeEmptiesTheBlock : Obligations.ResetEdgeEmptiesTheBlock := by
  intro s e he hrst hu
  refine ⟨by rw [hrst, s.cmdReady_true], by rw [hrst, s.rspValid_true],
    s.advance.resetAssert, step_of_rst he hrst hu, ?queue, ?inReset, ?rom, ?issued, ?received, ?offer⟩
  case queue => exact s.advance.resetAssert_q
  case inReset => exact s.advance.resetAssert_inReset
  case rom => rw [State.resetAssert_rom, State.advance_rom]
  case issued => simp
  case received => simp
  case offer => exact State.rspValid_of_q_eq_nil s.advance.resetAssert_q false

end Sys2Proof.Machine
end
